-- ==== Sys2Proof/Word.lean ====
section
/-! DEFINITION. The word types of the block: bytes, bus addresses, video addresses and operation words. -/

namespace Sys2Proof

/-- An 8-bit data value: every bus access moves one (R8, R68). -/
abbrev Byte := BitVec 8

/-- A 16-bit bus address (R60). -/
abbrev Addr := BitVec 16

/-- A 14-bit video address, as the video engine forms it (R63). -/
abbrev VideoAddr := BitVec 14

/-- A 32-bit operation word (R90). -/
abbrev OpWord := BitVec 32

end Sys2Proof
end

