-- ==== Sys2Proof/Syntax.lean ====
section
/-! DEFINITION. The operations of the block as syntax: one constructor per row of spec/opcode_table.json, the operand
types they carry, the transported operation (word and out-of-band buffer) and the pseudo-operations of R99. -/

namespace Sys2Proof

/-- One of the two timer/IO cores (R38). -/
inductive ViaId where
  | via1
  | via2
deriving DecidableEq, Repr

/-- A data port of a timer/IO core (R36). -/
inductive Port where
  | a
  | b
deriving DecidableEq, Repr

/-- A control line of a timer/IO core; LINE numbers them 0 to 3 in this order (R92). -/
inductive ControlLine where
  | ca1
  | ca2
  | cb1
  | cb2
deriving DecidableEq, Repr

/-- A joystick switch; JOY numbers them 0 to 4 in this order (R92). -/
inductive Button where
  | up
  | down
  | left
  | right
  | fire
deriving DecidableEq, Repr

/-- A rung of the RAM ladder; RAMCFG numbers them 0 to 7 in this order (R267). -/
inductive RamPreset where
  | unexp
  | k3
  | k8
  | k16
  | k24
  | k27
  | k32
  | k35
deriving DecidableEq, Repr

/-- One CPU-side bus access (R96, R251): the CPU makes no other. -/
inductive BusAccess where
  | read (a : Addr)
  | write (a : Addr) (v : Byte)
deriving DecidableEq, Repr

/-- One presented operation: the word, and the out-of-band byte buffer that CART, PRG and INJECT take (R90). -/
structure Op where
  word : OpWord
  buf : List Byte
deriving DecidableEq, Repr

/-- What the decode table asks of the state (R61): which expansion blocks are present, and the length of each
present cartridge image. -/
structure Presence where
  exp : Vector Bool 5
  cart : Vector (Option Nat) 4
deriving DecidableEq, Repr

/-- No expansion RAM and no cartridge: the presence at power-on (R23, R24). -/
def Presence.empty : Presence :=
  { exp := Vector.replicate 5 false, cart := Vector.replicate 4 none }

/-- The operations, one constructor per row of spec/opcode_table.json. A memory row carries the whole ADDR field and a
register row's address is fixed; RD and VRD carry no DATA (R91, log 9). -/
inductive Instr where
  -- RD: BusRead (R120), one constructor per decoded target.
  | rdRamLo (a : Addr)
  | rdExpram0 (a : Addr)
  | rdRamMid (a : Addr)
  | rdCart0 (a : Addr)
  | rdExpram1 (a : Addr)
  | rdCart1 (a : Addr)
  | rdExpram2 (a : Addr)
  | rdCart2 (a : Addr)
  | rdExpram3 (a : Addr)
  | rdRomChar (a : Addr)
  | rdColram (a : Addr)
  | rdCart3 (a : Addr)
  | rdExpram4 (a : Addr)
  | rdRomBasic (a : Addr)
  | rdRomKernal (a : Addr)
  | rdVicReg0
  | rdVicReg1
  | rdVicReg2
  | rdVicReg3
  | rdVicReg4
  | rdVicReg5
  | rdVicReg6
  | rdVicReg7
  | rdVicReg8
  | rdVicReg9
  | rdVicReg10
  | rdVicReg11
  | rdVicReg12
  | rdVicReg13
  | rdVicReg14
  | rdVicReg15
  | rdVia1Orb
  | rdVia1Ora
  | rdVia1Ddrb
  | rdVia1Ddra
  | rdVia1T1cL
  | rdVia1T1cH
  | rdVia1T1lL
  | rdVia1T1lH
  | rdVia1T2cL
  | rdVia1T2cH
  | rdVia1Sr
  | rdVia1Acr
  | rdVia1Pcr
  | rdVia1Ifr
  | rdVia1Ier
  | rdVia1OraNh
  | rdVia2Orb
  | rdVia2Ora
  | rdVia2Ddrb
  | rdVia2Ddra
  | rdVia2T1cL
  | rdVia2T1cH
  | rdVia2T1lL
  | rdVia2T1lH
  | rdVia2T2cL
  | rdVia2T2cH
  | rdVia2Sr
  | rdVia2Acr
  | rdVia2Pcr
  | rdVia2Ifr
  | rdVia2Ier
  | rdVia2OraNh
  | rdFloat (a : Addr)
  -- WR: BusWrite (R121), one constructor per decoded target.
  | wrRamLo (a : Addr) (v : Byte)
  | wrExpram0 (a : Addr) (v : Byte)
  | wrRamMid (a : Addr) (v : Byte)
  | wrCart0 (a : Addr) (v : Byte)
  | wrExpram1 (a : Addr) (v : Byte)
  | wrCart1 (a : Addr) (v : Byte)
  | wrExpram2 (a : Addr) (v : Byte)
  | wrCart2 (a : Addr) (v : Byte)
  | wrExpram3 (a : Addr) (v : Byte)
  | wrRomChar (a : Addr) (v : Byte)
  | wrColram (a : Addr) (v : Byte)
  | wrCart3 (a : Addr) (v : Byte)
  | wrExpram4 (a : Addr) (v : Byte)
  | wrRomBasic (a : Addr) (v : Byte)
  | wrRomKernal (a : Addr) (v : Byte)
  | wrVicReg0 (v : Byte)
  | wrVicReg1 (v : Byte)
  | wrVicReg2 (v : Byte)
  | wrVicReg3 (v : Byte)
  | wrVicReg4 (v : Byte)
  | wrVicReg5 (v : Byte)
  | wrVicReg6 (v : Byte)
  | wrVicReg7 (v : Byte)
  | wrVicReg8 (v : Byte)
  | wrVicReg9 (v : Byte)
  | wrVicReg10 (v : Byte)
  | wrVicReg11 (v : Byte)
  | wrVicReg12 (v : Byte)
  | wrVicReg13 (v : Byte)
  | wrVicReg14 (v : Byte)
  | wrVicReg15 (v : Byte)
  | wrVia1Orb (v : Byte)
  | wrVia1Ora (v : Byte)
  | wrVia1Ddrb (v : Byte)
  | wrVia1Ddra (v : Byte)
  | wrVia1T1cL (v : Byte)
  | wrVia1T1cH (v : Byte)
  | wrVia1T1lL (v : Byte)
  | wrVia1T1lH (v : Byte)
  | wrVia1T2cL (v : Byte)
  | wrVia1T2cH (v : Byte)
  | wrVia1Sr (v : Byte)
  | wrVia1Acr (v : Byte)
  | wrVia1Pcr (v : Byte)
  | wrVia1Ifr (v : Byte)
  | wrVia1Ier (v : Byte)
  | wrVia1OraNh (v : Byte)
  | wrVia2Orb (v : Byte)
  | wrVia2Ora (v : Byte)
  | wrVia2Ddrb (v : Byte)
  | wrVia2Ddra (v : Byte)
  | wrVia2T1cL (v : Byte)
  | wrVia2T1cH (v : Byte)
  | wrVia2T1lL (v : Byte)
  | wrVia2T1lH (v : Byte)
  | wrVia2T2cL (v : Byte)
  | wrVia2T2cH (v : Byte)
  | wrVia2Sr (v : Byte)
  | wrVia2Acr (v : Byte)
  | wrVia2Pcr (v : Byte)
  | wrVia2Ifr (v : Byte)
  | wrVia2Ier (v : Byte)
  | wrVia2OraNh (v : Byte)
  | wrFloat (a : Addr) (v : Byte)
  -- VRD: VideoRead (R122), one constructor per decoded target.
  | vrdRamLo (a : Addr)
  | vrdExpram0 (a : Addr)
  | vrdRamMid (a : Addr)
  | vrdCart0 (a : Addr)
  | vrdExpram1 (a : Addr)
  | vrdCart1 (a : Addr)
  | vrdExpram2 (a : Addr)
  | vrdCart2 (a : Addr)
  | vrdExpram3 (a : Addr)
  | vrdRomChar (a : Addr)
  | vrdColram (a : Addr)
  | vrdCart3 (a : Addr)
  | vrdExpram4 (a : Addr)
  | vrdRomBasic (a : Addr)
  | vrdRomKernal (a : Addr)
  | vrdVicWindow (a : Addr)
  | vrdViaWindows (a : Addr)
  | vrdFloat (a : Addr)
  -- The tick, the frame, reset and the host operations.
  /-- TICK: one per-cycle fan-out (R252). -/
  | tick
  /-- FRAME: run one frame (R250). -/
  | frame
  /-- RESET (R320). -/
  | reset
  /-- KEY: a keyboard matrix cell (R264). -/
  | key (pressed : Bool) (r c : Fin 8)
  /-- JOY: a joystick switch (R265). -/
  | joy (pressed : Bool) (button : Button)
  /-- LINE: the level of a control line (R266). -/
  | line (via : ViaId) (level : Bool) (l : ControlLine)
  /-- RAMCFG: a rung of the RAM ladder (R267, R268). -/
  | ramcfg (preset : RamPreset)
  /-- CART: install a cartridge image; ADDR 0 is auto-detect (R269-R272). -/
  | cart (addr : Addr) (doReset : Bool) (buf : List Byte)
  /-- PRG: the program loader (R273, R274). -/
  | prg (run : Bool) (buf : List Byte)
  /-- INJECT: start a character injection (R258). -/
  | inject (buf : List Byte)
  -- The reserved operation selectors.
  /-- A reserved word, OPC 13 (R95). -/
  | reservedOpc13 (rest : BitVec 27)
  /-- A reserved word, OPC 14 or 15 (R95). -/
  | reservedOpc14to15 (rest : BitVec 28)
  /-- A reserved word, OPC 16 to 31 (R95). -/
  | reservedOpc16to31 (rest : BitVec 31)
deriving DecidableEq, Repr

/-- The pseudo-operations of R99. -/
inductive Pseudo where
  /-- `TICK n`. -/
  | tickN (n : Nat)
  /-- `WR16 a, v`: low byte first. -/
  | wr16 (a : Addr) (v : BitVec 16)
  /-- `STEP c`, with its accesses: one CPU step that made those accesses and consumed c cycles. -/
  | step (c : Nat) (ops : List BusAccess)
deriving DecidableEq, Repr

end Sys2Proof
end

