-- ==== Sys2Proof/Config.lean ====
section
/-! DEFINITION. What an implementation fixes: the ROM images, which the spec leaves open, and the parameters of
00_scope.md R7 with their defaults. -/

namespace Sys2Proof.Config

/-- ROM_CHAR, 4096 bytes (R25). FREE VALUE: the spec gives no contents (U9), so the constant has no body. Log 4. -/
opaque romChar : BitVec 12 → Byte

/-- ROM_BASIC, 8192 bytes (R25). FREE VALUE, log 4. -/
opaque romBasic : BitVec 13 → Byte

/-- ROM_KERNAL, 8192 bytes (R25). FREE VALUE, log 4. -/
opaque romKernal : BitVec 13 → Byte

/-- How a wiring makes the live level of one port bit (R259): a term over the inputs of the block. Every Boolean
function of the joystick, the keyboard matrix and the levels of the port pins is some term, so any permuted matrix,
any port that selects columns or rows and any joystick bits are some wiring. DESIGN CHOICE of form, log 18. -/
inductive LiveBit where
  /-- Nothing is wired to the bit: it reads 1. -/
  | high
  /-- 1 while the joystick switch is pressed. -/
  | switch (b : Button)
  /-- 1 while the matrix cell is pressed. -/
  | key (r c : Fin 8)
  /-- The level of pin `i` of a port: an output pin drives its register bit, an input pin floats high (R261). -/
  | pin (k : ViaId) (p : Port) (i : Fin 8)
  | not (x : LiveBit)
  | and (x y : LiveBit)
deriving DecidableEq, Repr

/-- The parameter KBD_WIRING (R259): the live bits 0 to 7 of each port. -/
structure Wiring where
  via1A : Vector LiveBit 8
  via1B : Vector LiveBit 8
  via2A : Vector LiveBit 8
  via2B : Vector LiveBit 8
deriving DecidableEq, Repr

/-- The parameters the source leaves open (R7). They are constant while the machine runs. -/
structure Params where
  ramInit : Byte
  htotal : Nat
  vtotal : Nat
  stride : Nat
  activeX0 : Nat
  activeX1 : Nat
  activeY0 : Nat
  activeY1 : Nat
  frameBudget : Nat
  hBias : Nat
  vBias : Nat
  ndxAddr : Addr
  xmaxAddr : Addr
  kbufAddr : Addr
  prgPtrs : List Addr
  wiring : Wiring
deriving DecidableEq, Repr

/-- An active-low switch (R260, R262). -/
def activeLow (b : Button) : LiveBit := .not (.switch b)

/-- A keyboard row: low while some column pin driven low meets a pressed key of the row; `column i` is the pin of column
`i` (R261). -/
def keyRow (column : Fin 8 → LiveBit) (r : Fin 8) : LiveBit :=
  [(0 : Fin 8), 1, 2, 3, 4, 5, 6, 7].foldr
    (fun c rest => .and (.not (.and (.not (column c)) (.key r c))) rest) .high

/-- The default wiring table (R259): the joystick on VIA1 port A (R260), the keyboard rows on VIA2 port A with the
columns on VIA2 port B (R261), joystick right on VIA2 port B (R262). -/
def defaultWiring : Wiring :=
  let row := keyRow (.pin .via2 .b)
  { via1A := #v[.high, .high, activeLow .up, activeLow .down, activeLow .left, activeLow .fire, .high, .high]
    via1B := #v[.high, .high, .high, .high, .high, .high, .high, .high]
    via2A := #v[row 0, row 1, row 2, row 3, row 4, row 5, row 6, row 7]
    via2B := #v[.high, .high, .high, .high, .high, .high, .high, activeLow .right] }

/-- The defaults of R7. `ramInit` is a draw there; 0x00 is a DESIGN CHOICE that D10 allows (log 3). -/
def defaults : Params :=
  { ramInit := 0x00
    htotal := 284
    vtotal := 312
    stride := 4
    activeX0 := 0
    activeX1 := 284
    activeY0 := 0
    activeY1 := 312
    frameBudget := 22152
    hBias := 0
    vBias := 0
    ndxAddr := 0x00C6
    xmaxAddr := 0x0289
    kbufAddr := 0x0277
    prgPtrs := [0x002D, 0x002F, 0x0031, 0x00AE]
    wiring := defaultWiring }

end Sys2Proof.Config
end

