-- ==== Sys2Proof/WellFormed.lean ====
section
/-! DEFINITION. Well-formedness of an operation as syntax: the address of a memory row lies in the row's range
(R61, R62, R64, R133). Every other operand type holds only values the encoding admits. -/

namespace Sys2Proof

/-- The address ranges of the decode table's memory rows. -/
inductive AddrRange where
  | ramLo
  | expram0
  | ramMid
  | region1
  | region2
  | region3
  | romChar
  | vicWindow
  | viaWindows
  | colram
  | region5
  | romBasic
  | romKernal
  /-- The unclaimed addresses and those of the conditional rows (R133). -/
  | floating
deriving DecidableEq, Repr

/-- `lo` and `hi` included. -/
def inRange (lo hi : Nat) (a : Addr) : Bool :=
  decide (lo ≤ a.toNat) && decide (a.toNat ≤ hi)

/-- The I/O holes that no row claims, whatever is present (R62, R133). -/
def inHole (a : Addr) : Bool :=
  inRange 0x9010 0x910F a || inRange 0x9130 0x93FF a || inRange 0x9800 0x9FFF a

/-- The addresses of a range (R61, R62). -/
def AddrRange.covers (g : AddrRange) (a : Addr) : Bool :=
  match g with
  | .ramLo => inRange 0x0000 0x03FF a
  | .expram0 => inRange 0x0400 0x0FFF a
  | .ramMid => inRange 0x1000 0x1FFF a
  | .region1 => inRange 0x2000 0x3FFF a
  | .region2 => inRange 0x4000 0x5FFF a
  | .region3 => inRange 0x6000 0x7FFF a
  | .romChar => inRange 0x8000 0x8FFF a
  | .vicWindow => inRange 0x9000 0x900F a
  | .viaWindows => inRange 0x9110 0x912F a
  | .colram => inRange 0x9400 0x97FF a
  | .region5 => inRange 0xA000 0xBFFF a
  | .romBasic => inRange 0xC000 0xDFFF a
  | .romKernal => inRange 0xE000 0xFFFF a
  | .floating => inHole a || inRange 0x0400 0x0FFF a || inRange 0x2000 0x7FFF a || inRange 0xA000 0xBFFF a

/-- Is the operation one that an operation word can stand for under some presence? -/
def Instr.wf : Instr → Bool
  | .rdRamLo a | .wrRamLo a _ | .vrdRamLo a => AddrRange.covers .ramLo a
  | .rdExpram0 a | .wrExpram0 a _ | .vrdExpram0 a => AddrRange.covers .expram0 a
  | .rdRamMid a | .wrRamMid a _ | .vrdRamMid a => AddrRange.covers .ramMid a
  | .rdCart0 a | .wrCart0 a _ | .vrdCart0 a => AddrRange.covers .region1 a
  | .rdExpram1 a | .wrExpram1 a _ | .vrdExpram1 a => AddrRange.covers .region1 a
  | .rdCart1 a | .wrCart1 a _ | .vrdCart1 a => AddrRange.covers .region2 a
  | .rdExpram2 a | .wrExpram2 a _ | .vrdExpram2 a => AddrRange.covers .region2 a
  | .rdCart2 a | .wrCart2 a _ | .vrdCart2 a => AddrRange.covers .region3 a
  | .rdExpram3 a | .wrExpram3 a _ | .vrdExpram3 a => AddrRange.covers .region3 a
  | .rdRomChar a | .wrRomChar a _ | .vrdRomChar a => AddrRange.covers .romChar a
  | .rdColram a | .wrColram a _ | .vrdColram a => AddrRange.covers .colram a
  | .rdCart3 a | .wrCart3 a _ | .vrdCart3 a => AddrRange.covers .region5 a
  | .rdExpram4 a | .wrExpram4 a _ | .vrdExpram4 a => AddrRange.covers .region5 a
  | .rdRomBasic a | .wrRomBasic a _ | .vrdRomBasic a => AddrRange.covers .romBasic a
  | .rdRomKernal a | .wrRomKernal a _ | .vrdRomKernal a => AddrRange.covers .romKernal a
  | .rdFloat a | .wrFloat a _ | .vrdFloat a => AddrRange.covers .floating a
  | .vrdVicWindow a => AddrRange.covers .vicWindow a
  | .vrdViaWindows a => AddrRange.covers .viaWindows a
  | .rdVicReg0 | .rdVicReg1 | .rdVicReg2 | .rdVicReg3 | .rdVicReg4 | .rdVicReg5 | .rdVicReg6 | .rdVicReg7
  | .rdVicReg8 | .rdVicReg9 | .rdVicReg10 | .rdVicReg11 | .rdVicReg12 | .rdVicReg13 | .rdVicReg14 | .rdVicReg15
  | .rdVia1Orb | .rdVia1Ora | .rdVia1Ddrb | .rdVia1Ddra | .rdVia1T1cL | .rdVia1T1cH | .rdVia1T1lL | .rdVia1T1lH
  | .rdVia1T2cL | .rdVia1T2cH | .rdVia1Sr | .rdVia1Acr | .rdVia1Pcr | .rdVia1Ifr | .rdVia1Ier | .rdVia1OraNh
  | .rdVia2Orb | .rdVia2Ora | .rdVia2Ddrb | .rdVia2Ddra | .rdVia2T1cL | .rdVia2T1cH | .rdVia2T1lL | .rdVia2T1lH
  | .rdVia2T2cL | .rdVia2T2cH | .rdVia2Sr | .rdVia2Acr | .rdVia2Pcr | .rdVia2Ifr | .rdVia2Ier | .rdVia2OraNh
  | .wrVicReg0 _ | .wrVicReg1 _ | .wrVicReg2 _ | .wrVicReg3 _ | .wrVicReg4 _ | .wrVicReg5 _ | .wrVicReg6 _
  | .wrVicReg7 _ | .wrVicReg8 _ | .wrVicReg9 _ | .wrVicReg10 _ | .wrVicReg11 _ | .wrVicReg12 _ | .wrVicReg13 _
  | .wrVicReg14 _ | .wrVicReg15 _ | .wrVia1Orb _ | .wrVia1Ora _ | .wrVia1Ddrb _ | .wrVia1Ddra _ | .wrVia1T1cL _
  | .wrVia1T1cH _ | .wrVia1T1lL _ | .wrVia1T1lH _ | .wrVia1T2cL _ | .wrVia1T2cH _ | .wrVia1Sr _ | .wrVia1Acr _
  | .wrVia1Pcr _ | .wrVia1Ifr _ | .wrVia1Ier _ | .wrVia1OraNh _ | .wrVia2Orb _ | .wrVia2Ora _ | .wrVia2Ddrb _
  | .wrVia2Ddra _ | .wrVia2T1cL _ | .wrVia2T1cH _ | .wrVia2T1lL _ | .wrVia2T1lH _ | .wrVia2T2cL _
  | .wrVia2T2cH _ | .wrVia2Sr _ | .wrVia2Acr _ | .wrVia2Pcr _ | .wrVia2Ifr _ | .wrVia2Ier _ | .wrVia2OraNh _
  | .tick | .frame | .reset | .key _ _ _ | .joy _ _ | .line _ _ _ | .ramcfg _ | .cart _ _ _ | .prg _ _
  | .inject _ | .reservedOpc13 _ | .reservedOpc14to15 _ | .reservedOpc16to31 _ => true

end Sys2Proof
end

