-- ==== Sys2Proof/Decode.lean ====
section
/-! DEFINITION. The address decoder (R61, R62), the operation decoder (R90-R95), the encoder written from the same
tables, and the expansion of the pseudo-operations (R99). -/

namespace Sys2Proof

/-- The target of a bus address (R61): a store, a register, or the floating bus. The index into a store is the
address less the store's base. -/
inductive Target where
  | ramLo
  | expram (b : Fin 5)
  | ramMid
  | cart (s : Fin 4)
  | romChar
  | vic (r : Fin 16)
  | via (k : ViaId) (r : Fin 16)
  | colram
  | romBasic
  | romKernal
  | float
deriving DecidableEq, Repr

/-- The register index ADDR[3:0] (R92, R94). -/
def registerIndex (a : Addr) : Fin 16 := (a.extractLsb' 0 4).toFin

/-- The base address of cartridge slot `s` (R24). -/
def cartBase (s : Fin 4) : Nat :=
  match s with
  | 0 => 0x2000
  | 1 => 0x4000
  | 2 => 0x6000
  | 3 => 0xA000

/-- One expansion region, rows 4 and 5 and their like: a present cartridge shadows the RAM behind it for the whole
region, and past its length the bus floats (R61, R126, D9). -/
def regionTarget (p : Presence) (s : Fin 4) (b : Fin 5) (off : Nat) : Target :=
  match p.cart[s] with
  | some len => if off < len then .cart s else .float
  | none => if p.exp[b] then .expram b else .float

/-- Decode (R61): the rows from the top, the first that matches wins. R62 gives the timer/IO windows. -/
def decodeAddr (p : Presence) (a : Addr) : Target :=
  let n := a.toNat
  if n ≤ 0x03FF then .ramLo
  else if n ≤ 0x0FFF then (if p.exp[(0 : Fin 5)] then .expram 0 else .float)
  else if n ≤ 0x1FFF then .ramMid
  else if n ≤ 0x3FFF then regionTarget p 0 1 (n - 0x2000)
  else if n ≤ 0x5FFF then regionTarget p 1 2 (n - 0x4000)
  else if n ≤ 0x7FFF then regionTarget p 2 3 (n - 0x6000)
  else if n ≤ 0x8FFF then .romChar
  else if n ≤ 0x900F then .vic (registerIndex a)
  else if n ≤ 0x910F then .float
  else if n ≤ 0x911F then .via .via1 (registerIndex a)
  else if n ≤ 0x912F then .via .via2 (registerIndex a)
  else if n ≤ 0x93FF then .float
  else if n ≤ 0x97FF then .colram
  else if n ≤ 0x9FFF then .float
  else if n ≤ 0xBFFF then regionTarget p 3 4 (n - 0xA000)
  else if n ≤ 0xDFFF then .romBasic
  else .romKernal

/-- The OPC field, bits 31..27 (R90). -/
def fieldOpc (w : OpWord) : BitVec 5 := w.extractLsb' 27 5

/-- The RSV field, bits 26..24 (R90). -/
def fieldRsv (w : OpWord) : BitVec 3 := w.extractLsb' 24 3

/-- The ADDR field, bits 23..8 (R90). -/
def fieldAddr (w : OpWord) : Addr := w.extractLsb' 8 16

/-- The DATA field, bits 7..0 (R90). -/
def fieldData (w : OpWord) : Byte := w.extractLsb' 0 8

/-- An operation word from its fields, RSV being 0 (R90). -/
def mkWord (opc : BitVec 5) (a : Addr) (d : Byte) : OpWord := opc ++ 0#3 ++ a ++ d

/-- The number of a button in JOY's DATA[2:0] (R92). -/
def Button.code (b : Button) : BitVec 3 :=
  match b with
  | .up => 0
  | .down => 1
  | .left => 2
  | .right => 3
  | .fire => 4

/-- JOY's DATA[2:0] read; 5 to 7 are reserved (R92, R95). -/
def buttonOf (n : BitVec 3) : Option Button :=
  match n.toFin with
  | 0 => some .up
  | 1 => some .down
  | 2 => some .left
  | 3 => some .right
  | 4 => some .fire
  | 5 | 6 | 7 => none

/-- The number of a control line in LINE's DATA[1:0] (R92). -/
def ControlLine.code (l : ControlLine) : BitVec 2 :=
  match l with
  | .ca1 => 0
  | .ca2 => 1
  | .cb1 => 2
  | .cb2 => 3

/-- LINE's DATA[1:0] read (R92). -/
def controlLineOf (n : BitVec 2) : ControlLine :=
  match n.toFin with
  | 0 => .ca1
  | 1 => .ca2
  | 2 => .cb1
  | 3 => .cb2

/-- The number of a preset in RAMCFG's DATA[2:0] (R267). -/
def RamPreset.code (r : RamPreset) : BitVec 3 :=
  match r with
  | .unexp => 0
  | .k3 => 1
  | .k8 => 2
  | .k16 => 3
  | .k24 => 4
  | .k27 => 5
  | .k32 => 6
  | .k35 => 7

/-- RAMCFG's DATA[2:0] read: every value is a preset (R92, R267). -/
def ramPresetOf (n : BitVec 3) : RamPreset :=
  match n.toFin with
  | 0 => .unexp
  | 1 => .k3
  | 2 => .k8
  | 3 => .k16
  | 4 => .k24
  | 5 => .k27
  | 6 => .k32
  | 7 => .k35

/-- LINE's core bit, ADDR[8] (R91). -/
def ViaId.addrBit (k : ViaId) : Addr :=
  match k with
  | .via1 => 0x0000
  | .via2 => 0x0100

/-- A flag in ADDR[0]. -/
def flagAddr (b : Bool) : Addr := if b then 1 else 0

/-- A flag in DATA[0]. -/
def flagByte (b : Bool) : Byte := if b then 1 else 0

/-- Why the decoder refuses a word (R95). The reserved operation selectors are rows of the table and decode to the
three `reserved` constructors. -/
inductive DecodeError where
  /-- RSV is not 0. -/
  | reservedRsv
  /-- JOY with a button number of 5 to 7. -/
  | reservedButton
  /-- An operand bit of a non-bus operation that R91 does not name is set. -/
  | strayBits
deriving DecidableEq, Repr

/-- The RD row of register `r` of VIC (R94). -/
def rdVicRow (r : Fin 16) : Instr :=
  match r.val with
  | 0 => .rdVicReg0
  | 1 => .rdVicReg1
  | 2 => .rdVicReg2
  | 3 => .rdVicReg3
  | 4 => .rdVicReg4
  | 5 => .rdVicReg5
  | 6 => .rdVicReg6
  | 7 => .rdVicReg7
  | 8 => .rdVicReg8
  | 9 => .rdVicReg9
  | 10 => .rdVicReg10
  | 11 => .rdVicReg11
  | 12 => .rdVicReg12
  | 13 => .rdVicReg13
  | 14 => .rdVicReg14
  | _ => .rdVicReg15

/-- The RD row of register `r` of VIA1 (R94). -/
def rdVia1Row (r : Fin 16) : Instr :=
  match r.val with
  | 0 => .rdVia1Orb
  | 1 => .rdVia1Ora
  | 2 => .rdVia1Ddrb
  | 3 => .rdVia1Ddra
  | 4 => .rdVia1T1cL
  | 5 => .rdVia1T1cH
  | 6 => .rdVia1T1lL
  | 7 => .rdVia1T1lH
  | 8 => .rdVia1T2cL
  | 9 => .rdVia1T2cH
  | 10 => .rdVia1Sr
  | 11 => .rdVia1Acr
  | 12 => .rdVia1Pcr
  | 13 => .rdVia1Ifr
  | 14 => .rdVia1Ier
  | _ => .rdVia1OraNh

/-- The RD row of register `r` of VIA2 (R94). -/
def rdVia2Row (r : Fin 16) : Instr :=
  match r.val with
  | 0 => .rdVia2Orb
  | 1 => .rdVia2Ora
  | 2 => .rdVia2Ddrb
  | 3 => .rdVia2Ddra
  | 4 => .rdVia2T1cL
  | 5 => .rdVia2T1cH
  | 6 => .rdVia2T1lL
  | 7 => .rdVia2T1lH
  | 8 => .rdVia2T2cL
  | 9 => .rdVia2T2cH
  | 10 => .rdVia2Sr
  | 11 => .rdVia2Acr
  | 12 => .rdVia2Pcr
  | 13 => .rdVia2Ifr
  | 14 => .rdVia2Ier
  | _ => .rdVia2OraNh

/-- The WR row of register `r` of VIC (R94). -/
def wrVicRow (r : Fin 16) (v : Byte) : Instr :=
  match r.val with
  | 0 => .wrVicReg0 v
  | 1 => .wrVicReg1 v
  | 2 => .wrVicReg2 v
  | 3 => .wrVicReg3 v
  | 4 => .wrVicReg4 v
  | 5 => .wrVicReg5 v
  | 6 => .wrVicReg6 v
  | 7 => .wrVicReg7 v
  | 8 => .wrVicReg8 v
  | 9 => .wrVicReg9 v
  | 10 => .wrVicReg10 v
  | 11 => .wrVicReg11 v
  | 12 => .wrVicReg12 v
  | 13 => .wrVicReg13 v
  | 14 => .wrVicReg14 v
  | _ => .wrVicReg15 v

/-- The WR row of register `r` of VIA1 (R94). -/
def wrVia1Row (r : Fin 16) (v : Byte) : Instr :=
  match r.val with
  | 0 => .wrVia1Orb v
  | 1 => .wrVia1Ora v
  | 2 => .wrVia1Ddrb v
  | 3 => .wrVia1Ddra v
  | 4 => .wrVia1T1cL v
  | 5 => .wrVia1T1cH v
  | 6 => .wrVia1T1lL v
  | 7 => .wrVia1T1lH v
  | 8 => .wrVia1T2cL v
  | 9 => .wrVia1T2cH v
  | 10 => .wrVia1Sr v
  | 11 => .wrVia1Acr v
  | 12 => .wrVia1Pcr v
  | 13 => .wrVia1Ifr v
  | 14 => .wrVia1Ier v
  | _ => .wrVia1OraNh v

/-- The WR row of register `r` of VIA2 (R94). -/
def wrVia2Row (r : Fin 16) (v : Byte) : Instr :=
  match r.val with
  | 0 => .wrVia2Orb v
  | 1 => .wrVia2Ora v
  | 2 => .wrVia2Ddrb v
  | 3 => .wrVia2Ddra v
  | 4 => .wrVia2T1cL v
  | 5 => .wrVia2T1cH v
  | 6 => .wrVia2T1lL v
  | 7 => .wrVia2T1lH v
  | 8 => .wrVia2T2cL v
  | 9 => .wrVia2T2cH v
  | 10 => .wrVia2Sr v
  | 11 => .wrVia2Acr v
  | 12 => .wrVia2Pcr v
  | 13 => .wrVia2Ifr v
  | 14 => .wrVia2Ier v
  | _ => .wrVia2OraNh v

/-- The RD row of a target (R93). -/
def rdRow (t : Target) (a : Addr) : Instr :=
  match t with
  | .ramLo => .rdRamLo a
  | .expram 0 => .rdExpram0 a
  | .ramMid => .rdRamMid a
  | .cart 0 => .rdCart0 a
  | .expram 1 => .rdExpram1 a
  | .cart 1 => .rdCart1 a
  | .expram 2 => .rdExpram2 a
  | .cart 2 => .rdCart2 a
  | .expram 3 => .rdExpram3 a
  | .romChar => .rdRomChar a
  | .colram => .rdColram a
  | .cart 3 => .rdCart3 a
  | .expram 4 => .rdExpram4 a
  | .romBasic => .rdRomBasic a
  | .romKernal => .rdRomKernal a
  | .float => .rdFloat a
  | .vic r => rdVicRow r
  | .via .via1 r => rdVia1Row r
  | .via .via2 r => rdVia2Row r

/-- The WR row of a target (R93). -/
def wrRow (t : Target) (a : Addr) (v : Byte) : Instr :=
  match t with
  | .ramLo => .wrRamLo a v
  | .expram 0 => .wrExpram0 a v
  | .ramMid => .wrRamMid a v
  | .cart 0 => .wrCart0 a v
  | .expram 1 => .wrExpram1 a v
  | .cart 1 => .wrCart1 a v
  | .expram 2 => .wrExpram2 a v
  | .cart 2 => .wrCart2 a v
  | .expram 3 => .wrExpram3 a v
  | .romChar => .wrRomChar a v
  | .colram => .wrColram a v
  | .cart 3 => .wrCart3 a v
  | .expram 4 => .wrExpram4 a v
  | .romBasic => .wrRomBasic a v
  | .romKernal => .wrRomKernal a v
  | .float => .wrFloat a v
  | .vic r => wrVicRow r v
  | .via .via1 r => wrVia1Row r v
  | .via .via2 r => wrVia2Row r v

/-- The VRD row of a target: the register windows are rows of their own (R93, R64). -/
def vrdRow (t : Target) (a : Addr) : Instr :=
  match t with
  | .ramLo => .vrdRamLo a
  | .expram 0 => .vrdExpram0 a
  | .ramMid => .vrdRamMid a
  | .cart 0 => .vrdCart0 a
  | .expram 1 => .vrdExpram1 a
  | .cart 1 => .vrdCart1 a
  | .expram 2 => .vrdExpram2 a
  | .cart 2 => .vrdCart2 a
  | .expram 3 => .vrdExpram3 a
  | .romChar => .vrdRomChar a
  | .colram => .vrdColram a
  | .cart 3 => .vrdCart3 a
  | .expram 4 => .vrdExpram4 a
  | .romBasic => .vrdRomBasic a
  | .romKernal => .vrdRomKernal a
  | .float => .vrdFloat a
  | .vic _ => .vrdVicWindow a
  | .via _ _ => .vrdViaWindows a

/-- A row whose unnamed operand bits must all be 0 (R95). -/
def strict (clean : Bool) (i : Instr) : Except DecodeError Instr :=
  if clean then .ok i else .error .strayBits

/-- The operand fields of OPC 0 to 12 (R91, R92, R93). -/
def decodeOperands (p : Presence) (opc : BitVec 5) (a : Addr) (d : Byte) (buf : List Byte) :
    Except DecodeError Instr :=
  match opc.toNat with
  | 0 => .ok (rdRow (decodeAddr p a) a)
  | 1 => .ok (wrRow (decodeAddr p a) a d)
  | 2 => .ok (vrdRow (decodeAddr p a) a)
  | 3 => strict (a == 0 && d == 0) .tick
  | 4 => strict (a == 0 && d == 0) .frame
  | 5 => strict (a == 0 && d == 0) .reset
  | 6 => strict (a &&& 0xFFFE == 0 && d &&& 0xC0 == 0)
      (.key (a.getLsbD 0) (d.extractLsb' 3 3).toFin (d.extractLsb' 0 3).toFin)
  | 7 =>
    match buttonOf (d.extractLsb' 0 3) with
    | some b => strict (a &&& 0xFFFE == 0 && d &&& 0xF8 == 0) (.joy (a.getLsbD 0) b)
    | none => .error .reservedButton
  | 8 => strict (a &&& 0xFEFE == 0 && d &&& 0xFC == 0)
      (.line (if a.getLsbD 8 then .via2 else .via1) (a.getLsbD 0) (controlLineOf (d.extractLsb' 0 2)))
  | 9 => strict (a == 0 && d &&& 0xF8 == 0) (.ramcfg (ramPresetOf (d.extractLsb' 0 3)))
  | 10 => strict (d &&& 0xFE == 0) (.cart a (d.getLsbD 0) buf)
  | 11 => strict (a == 0 && d &&& 0xFE == 0) (.prg (d.getLsbD 0) buf)
  | _ => strict (a == 0 && d == 0) (.inject buf)

/-- The operation decoder (R91, R93, R95), total on every word. Which row a bus access is depends on the presence as
well as on the word (log 8). -/
def decode (p : Presence) (op : Op) : Except DecodeError Instr :=
  let w := op.word
  let n := (fieldOpc w).toNat
  if 16 ≤ n then .ok (.reservedOpc16to31 (w.extractLsb' 0 31))
  else if 14 ≤ n then .ok (.reservedOpc14to15 (w.extractLsb' 0 28))
  else if n = 13 then .ok (.reservedOpc13 (w.extractLsb' 0 27))
  else if fieldRsv w ≠ 0 then .error .reservedRsv
  else decodeOperands p (fieldOpc w) (fieldAddr w) (fieldData w) op.buf

/-- The word of an operation, from spec/opcode_table.json and R91. DATA of RD and VRD is written as 0. -/
def encodeWord : Instr → OpWord
  | .rdRamLo a => mkWord 0 a 0
  | .rdExpram0 a => mkWord 0 a 0
  | .rdRamMid a => mkWord 0 a 0
  | .rdCart0 a => mkWord 0 a 0
  | .rdExpram1 a => mkWord 0 a 0
  | .rdCart1 a => mkWord 0 a 0
  | .rdExpram2 a => mkWord 0 a 0
  | .rdCart2 a => mkWord 0 a 0
  | .rdExpram3 a => mkWord 0 a 0
  | .rdRomChar a => mkWord 0 a 0
  | .rdColram a => mkWord 0 a 0
  | .rdCart3 a => mkWord 0 a 0
  | .rdExpram4 a => mkWord 0 a 0
  | .rdRomBasic a => mkWord 0 a 0
  | .rdRomKernal a => mkWord 0 a 0
  | .rdVicReg0 => mkWord 0 0x9000 0
  | .rdVicReg1 => mkWord 0 0x9001 0
  | .rdVicReg2 => mkWord 0 0x9002 0
  | .rdVicReg3 => mkWord 0 0x9003 0
  | .rdVicReg4 => mkWord 0 0x9004 0
  | .rdVicReg5 => mkWord 0 0x9005 0
  | .rdVicReg6 => mkWord 0 0x9006 0
  | .rdVicReg7 => mkWord 0 0x9007 0
  | .rdVicReg8 => mkWord 0 0x9008 0
  | .rdVicReg9 => mkWord 0 0x9009 0
  | .rdVicReg10 => mkWord 0 0x900A 0
  | .rdVicReg11 => mkWord 0 0x900B 0
  | .rdVicReg12 => mkWord 0 0x900C 0
  | .rdVicReg13 => mkWord 0 0x900D 0
  | .rdVicReg14 => mkWord 0 0x900E 0
  | .rdVicReg15 => mkWord 0 0x900F 0
  | .rdVia1Orb => mkWord 0 0x9110 0
  | .rdVia1Ora => mkWord 0 0x9111 0
  | .rdVia1Ddrb => mkWord 0 0x9112 0
  | .rdVia1Ddra => mkWord 0 0x9113 0
  | .rdVia1T1cL => mkWord 0 0x9114 0
  | .rdVia1T1cH => mkWord 0 0x9115 0
  | .rdVia1T1lL => mkWord 0 0x9116 0
  | .rdVia1T1lH => mkWord 0 0x9117 0
  | .rdVia1T2cL => mkWord 0 0x9118 0
  | .rdVia1T2cH => mkWord 0 0x9119 0
  | .rdVia1Sr => mkWord 0 0x911A 0
  | .rdVia1Acr => mkWord 0 0x911B 0
  | .rdVia1Pcr => mkWord 0 0x911C 0
  | .rdVia1Ifr => mkWord 0 0x911D 0
  | .rdVia1Ier => mkWord 0 0x911E 0
  | .rdVia1OraNh => mkWord 0 0x911F 0
  | .rdVia2Orb => mkWord 0 0x9120 0
  | .rdVia2Ora => mkWord 0 0x9121 0
  | .rdVia2Ddrb => mkWord 0 0x9122 0
  | .rdVia2Ddra => mkWord 0 0x9123 0
  | .rdVia2T1cL => mkWord 0 0x9124 0
  | .rdVia2T1cH => mkWord 0 0x9125 0
  | .rdVia2T1lL => mkWord 0 0x9126 0
  | .rdVia2T1lH => mkWord 0 0x9127 0
  | .rdVia2T2cL => mkWord 0 0x9128 0
  | .rdVia2T2cH => mkWord 0 0x9129 0
  | .rdVia2Sr => mkWord 0 0x912A 0
  | .rdVia2Acr => mkWord 0 0x912B 0
  | .rdVia2Pcr => mkWord 0 0x912C 0
  | .rdVia2Ifr => mkWord 0 0x912D 0
  | .rdVia2Ier => mkWord 0 0x912E 0
  | .rdVia2OraNh => mkWord 0 0x912F 0
  | .rdFloat a => mkWord 0 a 0
  | .wrRamLo a v => mkWord 1 a v
  | .wrExpram0 a v => mkWord 1 a v
  | .wrRamMid a v => mkWord 1 a v
  | .wrCart0 a v => mkWord 1 a v
  | .wrExpram1 a v => mkWord 1 a v
  | .wrCart1 a v => mkWord 1 a v
  | .wrExpram2 a v => mkWord 1 a v
  | .wrCart2 a v => mkWord 1 a v
  | .wrExpram3 a v => mkWord 1 a v
  | .wrRomChar a v => mkWord 1 a v
  | .wrColram a v => mkWord 1 a v
  | .wrCart3 a v => mkWord 1 a v
  | .wrExpram4 a v => mkWord 1 a v
  | .wrRomBasic a v => mkWord 1 a v
  | .wrRomKernal a v => mkWord 1 a v
  | .wrVicReg0 v => mkWord 1 0x9000 v
  | .wrVicReg1 v => mkWord 1 0x9001 v
  | .wrVicReg2 v => mkWord 1 0x9002 v
  | .wrVicReg3 v => mkWord 1 0x9003 v
  | .wrVicReg4 v => mkWord 1 0x9004 v
  | .wrVicReg5 v => mkWord 1 0x9005 v
  | .wrVicReg6 v => mkWord 1 0x9006 v
  | .wrVicReg7 v => mkWord 1 0x9007 v
  | .wrVicReg8 v => mkWord 1 0x9008 v
  | .wrVicReg9 v => mkWord 1 0x9009 v
  | .wrVicReg10 v => mkWord 1 0x900A v
  | .wrVicReg11 v => mkWord 1 0x900B v
  | .wrVicReg12 v => mkWord 1 0x900C v
  | .wrVicReg13 v => mkWord 1 0x900D v
  | .wrVicReg14 v => mkWord 1 0x900E v
  | .wrVicReg15 v => mkWord 1 0x900F v
  | .wrVia1Orb v => mkWord 1 0x9110 v
  | .wrVia1Ora v => mkWord 1 0x9111 v
  | .wrVia1Ddrb v => mkWord 1 0x9112 v
  | .wrVia1Ddra v => mkWord 1 0x9113 v
  | .wrVia1T1cL v => mkWord 1 0x9114 v
  | .wrVia1T1cH v => mkWord 1 0x9115 v
  | .wrVia1T1lL v => mkWord 1 0x9116 v
  | .wrVia1T1lH v => mkWord 1 0x9117 v
  | .wrVia1T2cL v => mkWord 1 0x9118 v
  | .wrVia1T2cH v => mkWord 1 0x9119 v
  | .wrVia1Sr v => mkWord 1 0x911A v
  | .wrVia1Acr v => mkWord 1 0x911B v
  | .wrVia1Pcr v => mkWord 1 0x911C v
  | .wrVia1Ifr v => mkWord 1 0x911D v
  | .wrVia1Ier v => mkWord 1 0x911E v
  | .wrVia1OraNh v => mkWord 1 0x911F v
  | .wrVia2Orb v => mkWord 1 0x9120 v
  | .wrVia2Ora v => mkWord 1 0x9121 v
  | .wrVia2Ddrb v => mkWord 1 0x9122 v
  | .wrVia2Ddra v => mkWord 1 0x9123 v
  | .wrVia2T1cL v => mkWord 1 0x9124 v
  | .wrVia2T1cH v => mkWord 1 0x9125 v
  | .wrVia2T1lL v => mkWord 1 0x9126 v
  | .wrVia2T1lH v => mkWord 1 0x9127 v
  | .wrVia2T2cL v => mkWord 1 0x9128 v
  | .wrVia2T2cH v => mkWord 1 0x9129 v
  | .wrVia2Sr v => mkWord 1 0x912A v
  | .wrVia2Acr v => mkWord 1 0x912B v
  | .wrVia2Pcr v => mkWord 1 0x912C v
  | .wrVia2Ifr v => mkWord 1 0x912D v
  | .wrVia2Ier v => mkWord 1 0x912E v
  | .wrVia2OraNh v => mkWord 1 0x912F v
  | .wrFloat a v => mkWord 1 a v
  | .vrdRamLo a => mkWord 2 a 0
  | .vrdExpram0 a => mkWord 2 a 0
  | .vrdRamMid a => mkWord 2 a 0
  | .vrdCart0 a => mkWord 2 a 0
  | .vrdExpram1 a => mkWord 2 a 0
  | .vrdCart1 a => mkWord 2 a 0
  | .vrdExpram2 a => mkWord 2 a 0
  | .vrdCart2 a => mkWord 2 a 0
  | .vrdExpram3 a => mkWord 2 a 0
  | .vrdRomChar a => mkWord 2 a 0
  | .vrdColram a => mkWord 2 a 0
  | .vrdCart3 a => mkWord 2 a 0
  | .vrdExpram4 a => mkWord 2 a 0
  | .vrdRomBasic a => mkWord 2 a 0
  | .vrdRomKernal a => mkWord 2 a 0
  | .vrdVicWindow a => mkWord 2 a 0
  | .vrdViaWindows a => mkWord 2 a 0
  | .vrdFloat a => mkWord 2 a 0
  | .tick => mkWord 3 0 0
  | .frame => mkWord 4 0 0
  | .reset => mkWord 5 0 0
  | .key pressed r c => mkWord 6 (flagAddr pressed) (0#2 ++ BitVec.ofFin (w := 3) r ++ BitVec.ofFin (w := 3) c)
  | .joy pressed button => mkWord 7 (flagAddr pressed) (0#5 ++ button.code)
  | .line via level l => mkWord 8 (via.addrBit ||| flagAddr level) (0#6 ++ l.code)
  | .ramcfg preset => mkWord 9 0 (0#5 ++ preset.code)
  | .cart addr doReset _ => mkWord 10 addr (flagByte doReset)
  | .prg run _ => mkWord 11 0 (flagByte run)
  | .inject _ => mkWord 12 0 0
  | .reservedOpc13 rest => (13#5 ++ rest : BitVec 32)
  | .reservedOpc14to15 rest => (7#4 ++ rest : BitVec 32)
  | .reservedOpc16to31 rest => (1#1 ++ rest : BitVec 32)

/-- The out-of-band buffer of an operation (R90). -/
def encodeBuf : Instr → List Byte
  | .cart _ _ buf => buf
  | .prg _ buf => buf
  | .inject buf => buf
  | _ => []

/-- The encoder: the operation as it is presented. -/
def encode (i : Instr) : Op := { word := encodeWord i, buf := encodeBuf i }

/-- Slot `s` holds a cartridge whose image reaches address `a` (rows 4, 6, 8 and 14 of R61). -/
def Presence.cartCovers (p : Presence) (s : Fin 4) (base : Nat) (a : Addr) : Bool :=
  match p.cart[s] with
  | some len => decide (a.toNat - base < len)
  | none => false

/-- An expansion region gives `a` a store: its cartridge reaches `a`, or it has none and its RAM is present. -/
def Presence.regionClaims (p : Presence) (s : Fin 4) (b : Fin 5) (base : Nat) (a : Addr) : Bool :=
  p.cartCovers s base a || ((p.cart[s]).isNone && p.exp[b])

/-- Some conditional row claims `a` (R61, rows 2, 4 to 9, 14 and 15). -/
def Presence.claims (p : Presence) (a : Addr) : Bool :=
  (inRange 0x0400 0x0FFF a && p.exp[(0 : Fin 5)]) ||
  (inRange 0x2000 0x3FFF a && p.regionClaims 0 1 0x2000 a) ||
  (inRange 0x4000 0x5FFF a && p.regionClaims 1 2 0x4000 a) ||
  (inRange 0x6000 0x7FFF a && p.regionClaims 2 3 0x6000 a) ||
  (inRange 0xA000 0xBFFF a && p.regionClaims 3 4 0xA000 a)

/-- The row's "condition" in spec/opcode_table.json holds (R93). -/
def Instr.selected (p : Presence) : Instr → Bool
  | .rdExpram0 _ | .wrExpram0 _ _ | .vrdExpram0 _ => p.exp[(0 : Fin 5)]
  | .rdCart0 a | .wrCart0 a _ | .vrdCart0 a => p.cartCovers 0 0x2000 a
  | .rdExpram1 _ | .wrExpram1 _ _ | .vrdExpram1 _ => (p.cart[(0 : Fin 4)]).isNone && p.exp[(1 : Fin 5)]
  | .rdCart1 a | .wrCart1 a _ | .vrdCart1 a => p.cartCovers 1 0x4000 a
  | .rdExpram2 _ | .wrExpram2 _ _ | .vrdExpram2 _ => (p.cart[(1 : Fin 4)]).isNone && p.exp[(2 : Fin 5)]
  | .rdCart2 a | .wrCart2 a _ | .vrdCart2 a => p.cartCovers 2 0x6000 a
  | .rdExpram3 _ | .wrExpram3 _ _ | .vrdExpram3 _ => (p.cart[(2 : Fin 4)]).isNone && p.exp[(3 : Fin 5)]
  | .rdCart3 a | .wrCart3 a _ | .vrdCart3 a => p.cartCovers 3 0xA000 a
  | .rdExpram4 _ | .wrExpram4 _ _ | .vrdExpram4 _ => (p.cart[(3 : Fin 4)]).isNone && p.exp[(4 : Fin 5)]
  | .rdFloat a | .wrFloat a _ | .vrdFloat a => !p.claims a
  | .rdRamLo _ | .rdRamMid _ | .rdRomChar _ | .rdColram _ | .rdRomBasic _ | .rdRomKernal _ | .rdVicReg0
  | .rdVicReg1 | .rdVicReg2 | .rdVicReg3 | .rdVicReg4 | .rdVicReg5 | .rdVicReg6 | .rdVicReg7 | .rdVicReg8
  | .rdVicReg9 | .rdVicReg10 | .rdVicReg11 | .rdVicReg12 | .rdVicReg13 | .rdVicReg14 | .rdVicReg15 | .rdVia1Orb
  | .rdVia1Ora | .rdVia1Ddrb | .rdVia1Ddra | .rdVia1T1cL | .rdVia1T1cH | .rdVia1T1lL | .rdVia1T1lH
  | .rdVia1T2cL | .rdVia1T2cH | .rdVia1Sr | .rdVia1Acr | .rdVia1Pcr | .rdVia1Ifr | .rdVia1Ier | .rdVia1OraNh
  | .rdVia2Orb | .rdVia2Ora | .rdVia2Ddrb | .rdVia2Ddra | .rdVia2T1cL | .rdVia2T1cH | .rdVia2T1lL | .rdVia2T1lH
  | .rdVia2T2cL | .rdVia2T2cH | .rdVia2Sr | .rdVia2Acr | .rdVia2Pcr | .rdVia2Ifr | .rdVia2Ier | .rdVia2OraNh
  | .wrRamLo _ _ | .wrRamMid _ _ | .wrRomChar _ _ | .wrColram _ _ | .wrRomBasic _ _ | .wrRomKernal _ _
  | .wrVicReg0 _ | .wrVicReg1 _ | .wrVicReg2 _ | .wrVicReg3 _ | .wrVicReg4 _ | .wrVicReg5 _ | .wrVicReg6 _
  | .wrVicReg7 _ | .wrVicReg8 _ | .wrVicReg9 _ | .wrVicReg10 _ | .wrVicReg11 _ | .wrVicReg12 _ | .wrVicReg13 _
  | .wrVicReg14 _ | .wrVicReg15 _ | .wrVia1Orb _ | .wrVia1Ora _ | .wrVia1Ddrb _ | .wrVia1Ddra _ | .wrVia1T1cL _
  | .wrVia1T1cH _ | .wrVia1T1lL _ | .wrVia1T1lH _ | .wrVia1T2cL _ | .wrVia1T2cH _ | .wrVia1Sr _ | .wrVia1Acr _
  | .wrVia1Pcr _ | .wrVia1Ifr _ | .wrVia1Ier _ | .wrVia1OraNh _ | .wrVia2Orb _ | .wrVia2Ora _ | .wrVia2Ddrb _
  | .wrVia2Ddra _ | .wrVia2T1cL _ | .wrVia2T1cH _ | .wrVia2T1lL _ | .wrVia2T1lH _ | .wrVia2T2cL _
  | .wrVia2T2cH _ | .wrVia2Sr _ | .wrVia2Acr _ | .wrVia2Pcr _ | .wrVia2Ifr _ | .wrVia2Ier _ | .wrVia2OraNh _
  | .vrdRamLo _ | .vrdRamMid _ | .vrdRomChar _ | .vrdColram _ | .vrdRomBasic _ | .vrdRomKernal _
  | .vrdVicWindow _ | .vrdViaWindows _ | .tick | .frame | .reset | .key _ _ _ | .joy _ _ | .line _ _ _
  | .ramcfg _ | .cart _ _ _ | .prg _ _ | .inject _ | .reservedOpc13 _ | .reservedOpc14to15 _
  | .reservedOpc16to31 _ => true

/-- The table's word decoded under the presence of power-on, with an empty buffer (log 8, log 21). The word is 32 bits
whatever the row, and it is not stored in memory, so it has no byte order. -/
def decodeTableWord (nbits w : Nat) : Option Instr :=
  match decode Presence.empty { word := BitVec.ofNat 32 (w % 2 ^ nbits), buf := [] } with
  | .ok i => some i
  | .error _ => none

/-- The address of register `r` of a core, the notation `VIA1 r` and `VIA2 r` (R99). -/
def viaAddr (k : ViaId) (r : Fin 16) : Addr :=
  match k with
  | .via1 => 0x9110 + BitVec.ofNat 16 r.val
  | .via2 => 0x9120 + BitVec.ofNat 16 r.val

/-- The address of video register `r`, the notation `VIC r` (R99). -/
def vicAddr (r : Fin 16) : Addr := 0x9000 + BitVec.ofNat 16 r.val

/-- The operation word of one CPU-side access (R91). -/
def accessOp (x : BusAccess) : Op :=
  match x with
  | .read a => { word := mkWord 0 a 0, buf := [] }
  | .write a v => { word := mkWord 1 a v, buf := [] }

/-- The operation `TICK`. -/
def tickOp : Op := { word := mkWord 3 0 0, buf := [] }

/-- The expansions of R99. `WR16` writes the low byte first. -/
def Pseudo.expand : Pseudo → List Op
  | .tickN n => List.replicate n tickOp
  | .wr16 a v =>
    [accessOp (.write a (v.extractLsb' 0 8)), accessOp (.write (a + 1) (v.extractLsb' 8 8))]
  | .step c ops => ops.map accessOp ++ List.replicate c tickOp

end Sys2Proof
end

