-- ==== Sys2Proof/Machine/State.lean ====
section
/-! DEFINITION. The state of the block as plain data, everything 10_state.md gives it, with the inputs and outputs that
cross its boundary; the reasons a step can stop; and the state after power-on. -/

namespace Sys2Proof.Machine

/-- RAM bytes as (bus address, byte) pairs in one canonical form (`Memory.wf` in Ops.lean). -/
abbrev Memory := List Host.Cell

/-- The fields of one timer/IO core (R31). -/
structure Via where
  ora : Byte
  orb : Byte
  ddra : Byte
  ddrb : Byte
  t1c : BitVec 16
  t1l : BitVec 16
  /-- The precount delay, 0 to 2 (R31). -/
  t1pre : Nat
  t1trig : Bool
  t2c : BitVec 16
  t2l : Byte
  t2trig : Bool
  sr : Byte
  acr : Byte
  pcr : Byte
  /-- The seven stored flags; bit 7 is computed by a read (R32). -/
  ifr : BitVec 7
  /-- The seven enables; bit 7 is not stored (R33). -/
  ier : BitVec 7
  ca1 : Bool
  ca1Prev : Bool
  ca2 : Bool
  ca2Prev : Bool
  cb1 : Bool
  cb1Prev : Bool
  cb2 : Bool
  cb2Prev : Bool
deriving DecidableEq, Repr

/-- The power-on and reset values of R31. -/
def Via.reset : Via :=
  { ora := 0, orb := 0, ddra := 0, ddrb := 0, t1c := 0, t1l := 0, t1pre := 0, t1trig := false,
    t2c := 0, t2l := 0, t2trig := false, sr := 0, acr := 0, pcr := 0, ifr := 0, ier := 0,
    ca1 := false, ca1Prev := false, ca2 := false, ca2Prev := false,
    cb1 := false, cb1Prev := false, cb2 := false, cb2Prev := false }

/-- The fields of the video engine (R39). The derived geometry is computed on demand (R42). -/
structure Vic where
  regs : Vector Byte 16
  hpos : Nat
  vpos : Nat
deriving DecidableEq, Repr

/-- The power-on and reset values of R39. -/
def Vic.reset : Vic := { regs := Vector.replicate 16 0, hpos := 0, vpos := 0 }

/-- A pending character injection, some(s, i) (R28). -/
structure Injection where
  text : List Byte
  idx : Nat
deriving DecidableEq, Repr

/-- One answer of the external CPU to CpuStep: its bus accesses, in order, and the cycles it consumed (R96, R251). -/
structure CpuStep where
  accesses : List BusAccess
  cycles : Nat
deriving DecidableEq, Repr

/-- The interface to the external CPU (R96). What the CPU will do is an input, held as data; every behaviour of a CPU
over a run is some value of these fields. DESIGN CHOICE, log 2, 14 and 15. -/
structure Cpu where
  /-- The answers to the CpuStep calls to come. -/
  steps : List CpuStep
  /-- The answer to CpuStep when `steps` is used up. -/
  idle : CpuStep
  /-- The answers to the CpuIrqEnabled calls to come, one a tick. -/
  irqAnswers : List Bool
  /-- The answer to CpuIrqEnabled when `irqAnswers` is used up. -/
  irqIdle : Bool
  /-- The bus accesses of the CpuReset calls to come (R322); none when used up. -/
  resetAccesses : List (List BusAccess)
  /-- The bytes BusRead returned to the CPU, newest first. -/
  reads : List Byte
  /-- How often CpuReset has been called. -/
  resetCount : Nat
deriving DecidableEq, Repr

/-- The null CPU of 95_test_vectors.md section 0: no bus access, 4 cycles a step, interrupts enabled. -/
def Cpu.null : Cpu :=
  { steps := [], idle := { accesses := [], cycles := 4 }, irqAnswers := [], irqIdle := true,
    resetAccesses := [], reads := [], resetCount := 1 }

/-- The interface events (R97). -/
inductive Event where
  /-- PortOut of a data port: the output register and the direction register. -/
  | portOut (k : ViaId) (p : Port) (value ddr : Byte)
  /-- PortOut of a control line at a manual level (R178). -/
  | lineOut (k : ViaId) (l : ControlLine) (level : Bool)
  /-- PortIn and the live value it returned. -/
  | portIn (k : ViaId) (p : Port) (live : Byte)
  /-- A pixel at frame coordinates, with its colour index (R222). -/
  | pixel (x y : Nat) (c : BitVec 4)
  | cpuNmi
  | cpuIrq
deriving DecidableEq, Repr

/-- The value an operation returns: the byte of RD and VRD (R120, R122), the acc of FRAME (R250). -/
inductive OpResult where
  | none
  | byte (v : Byte)
  | cycles (n : Nat)
deriving DecidableEq, Repr

/-- The whole state. -/
structure State where
  /-- The parameters of R7, constant (log 5). -/
  params : Config.Params
  /-- RAM_LO, RAM_MID, COLRAM and the present EXPRAM blocks, by bus address (R22, R23, log 22). -/
  ram : Memory
  /-- Which expansion blocks are present (R23). -/
  expram : Vector Bool 5
  /-- The cartridge slots (R24). -/
  cart : Vector (Option (List Byte)) 4
  /-- KBD[r][c], true meaning pressed (R26). -/
  kbd : Vector (Vector Bool 8) 8
  joyUp : Bool
  joyDown : Bool
  joyLeft : Bool
  joyRight : Bool
  joyFire : Bool
  /-- INJ (R28). -/
  inj : Option Injection
  /-- FCARRY (R29). -/
  fcarry : Nat
  /-- NMI_PREV (R30). -/
  nmiPrev : Bool
  via1 : Via
  via2 : Via
  vic : Vic
  /-- The external CPU's side of the interface (log 2). -/
  cpu : Cpu
  /-- The operations presented and not yet run, oldest first (log 1). -/
  queue : List Op
  /-- The event history (R97), newest first (log 7). -/
  events : List Event
  /-- The result of the last operation that returned one (log 6). -/
  result : OpResult
deriving DecidableEq, Repr

/-- The block has no fault channel (R290): there is no fault. -/
inductive Fault where
deriving DecidableEq, Repr

/-- Why the model takes no step. Each is a refusal of the model with no hardware counterpart (R290). -/
inductive Refusal where
  /-- Raised by an arm of `exec` whose instruction has no meaning yet. Safe: nothing is claimed of it. -/
  | notModelled (mnemonic : String)
  /-- Raised by `step` for a word the decoder refuses: RSV not 0, a reserved button, stray operand bits (R95). Safe. -/
  | reservedWord (e : DecodeError)
  /-- Raised by the three reserved rows, OPC 13 to 31 (R95). Safe. -/
  | reservedOpc
  /-- Raised by FRAME when a CpuStep returns 0 cycles (R251). Safe. -/
  | cpuStepZero
deriving DecidableEq, Repr

/-- Power-on (R323): the state after Reset on a machine whose RAM holds RAM_INIT, with every EXPRAM and CART absent
and INJ none. The fields that are the model's own have the values of log 1, 2, 6, 7, 14 and 15. -/
def State.reset : State :=
  { params := Config.defaults
    ram := []
    expram := Vector.replicate 5 false
    cart := Vector.replicate 4 none
    kbd := Vector.replicate 8 (Vector.replicate 8 false)
    joyUp := false
    joyDown := false
    joyLeft := false
    joyRight := false
    joyFire := false
    inj := none
    fcarry := 0
    nmiPrev := false
    via1 := Via.reset
    via2 := Via.reset
    vic := Vic.reset
    cpu := Cpu.null
    queue := []
    events := []
    result := .none }

end Sys2Proof.Machine
end

