-- ==== Sys2Proof/Machine/Flags.lean ====
section
/-! DEFINITION. The flag computations of a timer/IO core: the interrupt-flag and interrupt-enable registers (R32, R33),
the summary bit (R164), the enable write (R180) and the interrupt line (R188). -/

namespace Sys2Proof.Machine

/-- IFR bit 6, timer 1 (R32). -/
def flagT1 : BitVec 7 := 0x40
/-- IFR bit 5, timer 2. -/
def flagT2 : BitVec 7 := 0x20
/-- IFR bit 4. -/
def flagCb1 : BitVec 7 := 0x10
/-- IFR bit 3. -/
def flagCb2 : BitVec 7 := 0x08
/-- IFR bit 1. -/
def flagCa1 : BitVec 7 := 0x02
/-- IFR bit 0. -/
def flagCa2 : BitVec 7 := 0x01

/-- Clear the flags of a mask. -/
def clearFlags (f mask : BitVec 7) : BitVec 7 := f &&& ~~~mask

/-- Set the flags of a mask. -/
def setFlags (f mask : BitVec 7) : BitVec 7 := f ||| mask

/-- The interrupt line of a core, not latched (R188). -/
def irqLine (v : Via) : Bool := (v.ifr &&& v.ier) != 0

/-- What a read of IFR returns: bit 7 computed live (R164). -/
def ifrByte (v : Via) : Byte := (if irqLine v then 1#1 else 0#1) ++ v.ifr

/-- What a read of IER returns: bit 7 reads as 1 (R165). -/
def ierByte (v : Via) : Byte := 1#1 ++ v.ier

/-- The low seven bits of a written byte. -/
def lowSeven (v : Byte) : BitVec 7 := v.extractLsb' 0 7

/-- A write of IER: bit 7 selects set or clear (R180). -/
def ierAfterWrite (ier : BitVec 7) (v : Byte) : BitVec 7 :=
  if v.getLsbD 7 then ier ||| lowSeven v else ier &&& ~~~(lowSeven v)

/-- A write of IFR clears each flag written as 1 (R179). -/
def ifrAfterWrite (ifr : BitVec 7) (v : Byte) : BitVec 7 := clearFlags ifr (lowSeven v)

end Sys2Proof.Machine
end

