-- ==== Sys2Proof/Machine/Ops.lean ====
section
/-! DEFINITION. The named operations every meaning goes through: RAM, ROM and cartridge bytes, the cores by number, the
event history, interrupt delivery to the CPU (the block raises no exception of its own, R290; its part of an interrupt
ends with the event, R297), and the live values of the ports (R259-R262). -/

namespace Sys2Proof.Machine

/-- The byte a RAM cell holds; an unlisted cell holds RAM_INIT (`init`), R22 and R268. -/
def memRead (init : Byte) : Memory → Nat → Byte
  | [], _ => init
  | (k, b) :: m, a => if a = k then b else memRead init m a

/-- Store a byte that differs from RAM_INIT, in address order. -/
def memInsert : Memory → Nat → Byte → Memory
  | [], a, v => [(a, v)]
  | (k, b) :: m, a, v =>
    if a < k then (a, v) :: (k, b) :: m
    else if a = k then (a, v) :: m
    else (k, b) :: memInsert m a v

/-- Drop a cell. -/
def memErase : Memory → Nat → Memory
  | [], _ => []
  | (k, b) :: m, a => if a = k then m else (k, b) :: memErase m a

/-- Write a byte, keeping the canonical form: a cell that holds RAM_INIT is not listed. -/
def memWrite (init : Byte) (m : Memory) (a : Nat) (v : Byte) : Memory :=
  if v = init then memErase m a else memInsert m a v

/-- Every listed address is above `lo`, they rise strictly, and no cell holds RAM_INIT. -/
def memSortedFrom (init : Byte) : Nat → Memory → Bool
  | _, [] => true
  | lo, (k, b) :: m => decide (lo ≤ k) && decide (b ≠ init) && memSortedFrom init (k + 1) m

/-- The canonical form of a memory. -/
def Memory.wf (init : Byte) (m : Memory) : Bool := memSortedFrom init 0 m

/-- The high byte of a 16-bit value, v[15:8] (R8). -/
def hiByte (v : BitVec 16) : Byte := v.extractLsb' 8 8

/-- The low byte of a 16-bit value, v[7:0] (R8). -/
def loByte (v : BitVec 16) : Byte := v.extractLsb' 0 8

/-- Two bytes concatenated, {hi, lo} (R8). -/
def word16 (hi lo : Byte) : BitVec 16 := hi ++ lo

/-- The floating bus: the high byte of the address (R65). -/
def floatByte (a : Addr) : Byte := hiByte a

/-- The byte of RAM at a bus address (R22, R23). -/
def State.ramByte (s : State) (a : Addr) : Byte := memRead s.params.ramInit s.ram a.toNat

/-- Store a byte of RAM. -/
def State.setRamByte (s : State) (a : Addr) (v : Byte) : State :=
  { s with ram := memWrite s.params.ramInit s.ram a.toNat v }

/-- The byte of the cartridge in slot `c` at a bus address (R24); the bus floats past the image (R61). -/
def State.cartByte (s : State) (c : Fin 4) (a : Addr) : Byte :=
  match s.cart[c] with
  | some image => image.getD (a.toNat - cartBase c) (floatByte a)
  | none => floatByte a

/-- A byte of ROM_CHAR, by the low 12 address bits (R61 row 10). -/
def romCharByte (a : Addr) : Byte := Config.romChar (a.extractLsb' 0 12)

/-- A byte of ROM_BASIC, by the low 13 address bits (R61 row 16). -/
def romBasicByte (a : Addr) : Byte := Config.romBasic (a.extractLsb' 0 13)

/-- A byte of ROM_KERNAL, by the low 13 address bits (R61 row 17). -/
def romKernalByte (a : Addr) : Byte := Config.romKernal (a.extractLsb' 0 13)

/-- The image length of cartridge slot `c`, when one is present. -/
def State.cartLength (s : State) (c : Fin 4) : Option Nat := (s.cart[c]).map List.length

/-- What the decode table asks of the state (R61). -/
def State.presence (s : State) : Presence :=
  { exp := s.expram, cart := #v[s.cartLength 0, s.cartLength 1, s.cartLength 2, s.cartLength 3] }

/-- Core `k` (R38). -/
def State.via (s : State) (k : ViaId) : Via :=
  match k with
  | .via1 => s.via1
  | .via2 => s.via2

/-- Replace core `k`. -/
def State.setVia (s : State) (k : ViaId) (v : Via) : State :=
  match k with
  | .via1 => { s with via1 := v }
  | .via2 => { s with via2 := v }

/-- Record an event (R97). -/
def State.emit (s : State) (e : Event) : State := { s with events := e :: s.events }

/-- The event history in the order of emission (R97). -/
def State.history (s : State) : List Event := s.events.reverse

/-- NMI delivery: the block's whole part of it is the signal to the CPU core (R253, R297). -/
def deliverNmi (s : State) : State := s.emit .cpuNmi

/-- IRQ delivery: the block's whole part of it is the signal to the CPU core (R254, R297). -/
def deliverIrq (s : State) : State := s.emit .cpuIrq

/-- CpuIrqEnabled (R96): the external CPU's answer, one a tick (log 14). -/
def askIrqEnabled (s : State) : Bool × State :=
  match s.cpu.irqAnswers with
  | [] => (s.cpu.irqIdle, s)
  | b :: rest => (b, { s with cpu := { s.cpu with irqAnswers := rest } })

/-- The level of a joystick switch (R27). -/
def State.joy (s : State) (b : Button) : Bool :=
  match b with
  | .up => s.joyUp
  | .down => s.joyDown
  | .left => s.joyLeft
  | .right => s.joyRight
  | .fire => s.joyFire

/-- The pin levels of a port: output bits drive the register, input bits float high (R261). -/
def State.pinLevels (s : State) (k : ViaId) (p : Port) : Byte :=
  match p with
  | .a => (s.via k).ora ||| ~~~(s.via k).ddra
  | .b => (s.via k).orb ||| ~~~(s.via k).ddrb

/-- The level a wiring's term gives in a state (R259). -/
def State.liveLevel (s : State) : Config.LiveBit → Bool
  | .high => true
  | .switch b => s.joy b
  | .key r c => (s.kbd[r])[c]
  | .pin k p i => (s.pinLevels k p).getLsbD i.val
  | .not x => !s.liveLevel x
  | .and x y => s.liveLevel x && s.liveLevel y

/-- The byte of eight live bits, bit 0 first. -/
def State.liveByte (s : State) (bits : Vector Config.LiveBit 8) : Byte :=
  [(0 : Fin 8), 1, 2, 3, 4, 5, 6, 7].foldl
    (fun live i => if s.liveLevel bits[i] then live ||| (1#8 <<< i.val) else live) 0

/-- The live bits a wiring gives a port (R259). -/
def portBits (w : Config.Wiring) (k : ViaId) (p : Port) : Vector Config.LiveBit 8 :=
  match k, p with
  | .via1, .a => w.via1A
  | .via1, .b => w.via1B
  | .via2, .a => w.via2A
  | .via2, .b => w.via2B

/-- The live value PortIn returns for a port (R97, R259). -/
def portLive (s : State) (k : ViaId) (p : Port) : Byte := s.liveByte (portBits s.params.wiring k p)

/-- Merge live bits into the input bits of an output register (R182). -/
def mergeInput (reg ddr live : Byte) : Byte := (reg &&& ddr) ||| (live &&& ~~~ddr)

/-- PortInMerge(k, P): ask the wiring, record the question, merge (R182). -/
def portInMerge (k : ViaId) (p : Port) (s : State) : State :=
  let live := portLive s k p
  let v := s.via k
  let v' : Via :=
    match p with
    | .a => { v with ora := mergeInput v.ora v.ddra live }
    | .b => { v with orb := mergeInput v.orb v.ddrb live }
  (s.setVia k v').emit (.portIn k p live)

/-- An output-data write touches only the bits configured as outputs (R36, R167). -/
def maskOutput (reg ddr v : Byte) : Byte := (reg &&& ~~~ddr) ||| (v &&& ddr)

end Sys2Proof.Machine
end

