-- ==== Sys2Proof/Machine/ViaRegs.lean ====
section
/-! DEFINITION. The register contract of a timer/IO core: reads R152-R166, writes R167-R181, and the two
multiplexers R150 and R151. A read answers the byte and the state after it. -/

namespace Sys2Proof.Machine

/-- Clear flags of core `k`. -/
def clearViaFlags (k : ViaId) (mask : BitVec 7) (s : State) : State :=
  s.setVia k { s.via k with ifr := clearFlags (s.via k).ifr mask }

/-- Read ORB (R152). -/
def viaReadOrb (k : ViaId) (s : State) : Byte × State :=
  let s' := portInMerge k .b (clearViaFlags k (flagCb1 ||| flagCb2) s)
  ((s'.via k).orb, s')

/-- Read ORA (R153). -/
def viaReadOra (k : ViaId) (s : State) : Byte × State :=
  let s' := portInMerge k .a (clearViaFlags k (flagCa1 ||| flagCa2) s)
  ((s'.via k).ora, s')

/-- Read DDRB (R154). -/
def viaReadDdrb (k : ViaId) (s : State) : Byte × State := ((s.via k).ddrb, s)

/-- Read DDRA (R154). -/
def viaReadDdra (k : ViaId) (s : State) : Byte × State := ((s.via k).ddra, s)

/-- Read T1C-L (R155). -/
def viaReadT1cL (k : ViaId) (s : State) : Byte × State :=
  (loByte (s.via k).t1c, clearViaFlags k flagT1 s)

/-- Read T1C-H (R156). -/
def viaReadT1cH (k : ViaId) (s : State) : Byte × State := (hiByte (s.via k).t1c, s)

/-- Read T1L-L (R157). -/
def viaReadT1lL (k : ViaId) (s : State) : Byte × State := (loByte (s.via k).t1l, s)

/-- Read T1L-H (R158). -/
def viaReadT1lH (k : ViaId) (s : State) : Byte × State := (hiByte (s.via k).t1l, s)

/-- Read T2C-L (R159). -/
def viaReadT2cL (k : ViaId) (s : State) : Byte × State :=
  (loByte (s.via k).t2c, clearViaFlags k flagT2 s)

/-- Read T2C-H (R160). -/
def viaReadT2cH (k : ViaId) (s : State) : Byte × State := (hiByte (s.via k).t2c, s)

/-- Read SR (R161). -/
def viaReadSr (k : ViaId) (s : State) : Byte × State := ((s.via k).sr, s)

/-- Read ACR (R162). -/
def viaReadAcr (k : ViaId) (s : State) : Byte × State := ((s.via k).acr, s)

/-- Read PCR (R163). -/
def viaReadPcr (k : ViaId) (s : State) : Byte × State := ((s.via k).pcr, s)

/-- Read IFR (R164). -/
def viaReadIfr (k : ViaId) (s : State) : Byte × State := (ifrByte (s.via k), s)

/-- Read IER (R165). -/
def viaReadIer (k : ViaId) (s : State) : Byte × State := (ierByte (s.via k), s)

/-- Read ORA_NH, the no-handshake alias (R166). -/
def viaReadOraNh (k : ViaId) (s : State) : Byte × State :=
  let s' := portInMerge k .a s
  ((s'.via k).ora, s')

/-- ViaRead(k, r) (R150). -/
def viaRead (k : ViaId) (r : Fin 16) (s : State) : Byte × State :=
  match r.val with
  | 0 => viaReadOrb k s
  | 1 => viaReadOra k s
  | 2 => viaReadDdrb k s
  | 3 => viaReadDdra k s
  | 4 => viaReadT1cL k s
  | 5 => viaReadT1cH k s
  | 6 => viaReadT1lL k s
  | 7 => viaReadT1lH k s
  | 8 => viaReadT2cL k s
  | 9 => viaReadT2cH k s
  | 10 => viaReadSr k s
  | 11 => viaReadAcr k s
  | 12 => viaReadPcr k s
  | 13 => viaReadIfr k s
  | 14 => viaReadIer k s
  | _ => viaReadOraNh k s

/-- Write ORB (R167). -/
def viaWriteOrb (k : ViaId) (d : Byte) (s : State) : State :=
  let v := s.via k
  let orb := maskOutput v.orb v.ddrb d
  (s.setVia k { v with orb := orb, ifr := clearFlags v.ifr (flagCb1 ||| flagCb2) }).emit
    (.portOut k .b orb v.ddrb)

/-- Write ORA (R168). -/
def viaWriteOra (k : ViaId) (d : Byte) (s : State) : State :=
  let v := s.via k
  let ora := maskOutput v.ora v.ddra d
  (s.setVia k { v with ora := ora, ifr := clearFlags v.ifr (flagCa1 ||| flagCa2) }).emit
    (.portOut k .a ora v.ddra)

/-- Write DDRB (R169). -/
def viaWriteDdrb (k : ViaId) (d : Byte) (s : State) : State := s.setVia k { s.via k with ddrb := d }

/-- Write DDRA (R169). -/
def viaWriteDdra (k : ViaId) (d : Byte) (s : State) : State := s.setVia k { s.via k with ddra := d }

/-- Load the low byte of the timer 1 latch. -/
def loadT1lLow (k : ViaId) (d : Byte) (s : State) : State :=
  s.setVia k { s.via k with t1l := word16 (hiByte (s.via k).t1l) d }

/-- Write T1C-L: the latch only (R170). -/
def viaWriteT1cL (k : ViaId) (d : Byte) (s : State) : State := loadT1lLow k d s

/-- Write T1C-H: start timer 1; the precount delay is left as it is (R171). -/
def viaWriteT1cH (k : ViaId) (d : Byte) (s : State) : State :=
  let v := s.via k
  let latch := word16 d (loByte v.t1l)
  s.setVia k { v with t1l := latch, t1c := latch, ifr := clearFlags v.ifr flagT1, t1trig := false }

/-- Write T1L-L (R172). -/
def viaWriteT1lL (k : ViaId) (d : Byte) (s : State) : State := loadT1lLow k d s

/-- Write T1L-H: the trigger is left as it is (R173). -/
def viaWriteT1lH (k : ViaId) (d : Byte) (s : State) : State :=
  let v := s.via k
  s.setVia k { v with t1l := word16 d (loByte v.t1l), ifr := clearFlags v.ifr flagT1 }

/-- Write T2C-L: the latch only (R174). -/
def viaWriteT2cL (k : ViaId) (d : Byte) (s : State) : State := s.setVia k { s.via k with t2l := d }

/-- Write T2C-H: start timer 2 (R175). -/
def viaWriteT2cH (k : ViaId) (d : Byte) (s : State) : State :=
  let v := s.via k
  s.setVia k { v with t2c := word16 d v.t2l, ifr := clearFlags v.ifr flagT2, t2trig := false }

/-- Write SR: storage only (R176). -/
def viaWriteSr (k : ViaId) (d : Byte) (s : State) : State := s.setVia k { s.via k with sr := d }

/-- Write ACR (R177). -/
def viaWriteAcr (k : ViaId) (d : Byte) (s : State) : State := s.setVia k { s.via k with acr := d }

/-- The manual level a three-bit CA2 or CB2 mode requests: 110 low, 111 high, no other (R35, R178). -/
def manualLevel (mode : BitVec 3) : Option Bool :=
  if mode = 0b110 then some false else if mode = 0b111 then some true else none

/-- Drive CA2 to a requested manual level and tell the port sink (R178). -/
def driveCa2 (k : ViaId) (req : Option Bool) (s : State) : State :=
  match req with
  | some level => (s.setVia k { s.via k with ca2 := level }).emit (.lineOut k .ca2 level)
  | none => s

/-- Drive CB2 to a requested manual level and tell the port sink (R178). -/
def driveCb2 (k : ViaId) (req : Option Bool) (s : State) : State :=
  match req with
  | some level => (s.setVia k { s.via k with cb2 := level }).emit (.lineOut k .cb2 level)
  | none => s

/-- Write PCR; CA2 before CB2 (R178). -/
def viaWritePcr (k : ViaId) (d : Byte) (s : State) : State :=
  driveCb2 k (manualLevel (d.extractLsb' 5 3))
    (driveCa2 k (manualLevel (d.extractLsb' 1 3)) (s.setVia k { s.via k with pcr := d }))

/-- Write IFR (R179). -/
def viaWriteIfr (k : ViaId) (d : Byte) (s : State) : State :=
  s.setVia k { s.via k with ifr := ifrAfterWrite (s.via k).ifr d }

/-- Write IER (R180). -/
def viaWriteIer (k : ViaId) (d : Byte) (s : State) : State :=
  s.setVia k { s.via k with ier := ierAfterWrite (s.via k).ier d }

/-- Write ORA_NH: no flag changes (R181). -/
def viaWriteOraNh (k : ViaId) (d : Byte) (s : State) : State :=
  let v := s.via k
  let ora := maskOutput v.ora v.ddra d
  (s.setVia k { v with ora := ora }).emit (.portOut k .a ora v.ddra)

/-- ViaWrite(k, r, v) (R151). -/
def viaWrite (k : ViaId) (r : Fin 16) (d : Byte) (s : State) : State :=
  match r.val with
  | 0 => viaWriteOrb k d s
  | 1 => viaWriteOra k d s
  | 2 => viaWriteDdrb k d s
  | 3 => viaWriteDdra k d s
  | 4 => viaWriteT1cL k d s
  | 5 => viaWriteT1cH k d s
  | 6 => viaWriteT1lL k d s
  | 7 => viaWriteT1lH k d s
  | 8 => viaWriteT2cL k d s
  | 9 => viaWriteT2cH k d s
  | 10 => viaWriteSr k d s
  | 11 => viaWriteAcr k d s
  | 12 => viaWritePcr k d s
  | 13 => viaWriteIfr k d s
  | 14 => viaWriteIer k d s
  | _ => viaWriteOraNh k d s

end Sys2Proof.Machine
end

