-- ==== Sys2Proof/Machine/VicRegs.lean ====
section
/-! DEFINITION. The video registers: reads R200-R203, writes R201 and R204-R214, and the geometry derived from them
(R40, R42), computed on demand. -/

namespace Sys2Proof.Machine

/-- REG[r] as last written. -/
def Vic.reg (v : Vic) (r : Fin 16) : Byte := v.regs[r]

/-- VicRead(r): registers 3 and 4 read the raster, every other its stored value (R200, R202, R203). -/
def vicRead (r : Fin 16) (s : State) : Byte :=
  match r.val with
  | 3 => (BitVec.ofBool (s.vic.vpos.testBit 0)) ++ (s.vic.reg 3).extractLsb' 0 7
  | 4 => (BitVec.ofNat 9 s.vic.vpos).extractLsb' 1 8
  | _ => s.vic.reg r

/-- VicWrite(r, v): the value is stored; the derived geometry follows, being a function of the registers
(R201, R204, R205). -/
def vicWrite (r : Fin 16) (d : Byte) (s : State) : State :=
  { s with vic := { s.vic with regs := s.vic.regs.set r d } }

/-- COLS = REG[2][6:0] (R42). -/
def cols (s : State) : Nat := ((s.vic.reg 2).extractLsb' 0 7).toNat

/-- ROWS = REG[3][6:1]. -/
def rows (s : State) : Nat := ((s.vic.reg 3).extractLsb' 1 6).toNat

/-- CHAR_H: 16 when REG[3][0] is 1, else 8. -/
def charH (s : State) : Nat := if (s.vic.reg 3).getLsbD 0 then 16 else 8

/-- LEFT, in pixels. -/
def leftEdge (s : State) : Nat := ((s.vic.reg 0).extractLsb' 0 7).toNat * 4 + s.params.hBias

/-- TOP, in lines. -/
def topEdge (s : State) : Nat := (s.vic.reg 1).toNat * 2 + s.params.vBias

/-- AREA_W, in pixels. -/
def areaW (s : State) : Nat := cols s * 8

/-- AREA_H, in lines. -/
def areaH (s : State) : Nat := rows s * charH s

/-- SCREEN_VA: REG[5][7:4] at bits 13..10 and REG[2][7] at bit 9. -/
def screenVa (s : State) : VideoAddr :=
  (s.vic.reg 5).extractLsb' 4 4 ++ (s.vic.reg 2).extractLsb' 7 1 ++ 0#9

/-- CHAR_VA: REG[5][3:0] at bits 13..10. -/
def charVa (s : State) : VideoAddr := (s.vic.reg 5).extractLsb' 0 4 ++ 0#10

/-- VA2CPU, the video address map (R63). -/
def va2cpu (va : VideoAddr) : Addr :=
  if va.getLsbD 13 then 0#3 ++ va.extractLsb' 0 13 else 4#3 ++ va.extractLsb' 0 13

/-- SCREEN_BASE (R42). -/
def screenBase (s : State) : Addr := va2cpu (screenVa s)

/-- CHAR_BASE (R42). -/
def charBase (s : State) : Addr := va2cpu (charVa s)

/-- COLOR_BASE = 0x9400 | (REG[2][7] << 9) (R42). -/
def colorBase (s : State) : Addr := if (s.vic.reg 2).getLsbD 7 then 0x9600 else 0x9400

/-- BORDER = REG[15][2:0], as a colour index. -/
def borderColor (s : State) : BitVec 4 := 0#1 ++ (s.vic.reg 15).extractLsb' 0 3

/-- BACKGROUND = REG[15][7:4]. -/
def backgroundColor (s : State) : BitVec 4 := (s.vic.reg 15).extractLsb' 4 4

/-- AUX = REG[14][7:4]. -/
def auxColor (s : State) : BitVec 4 := (s.vic.reg 14).extractLsb' 4 4

/-- INVERT: REG[15][3] is 0. -/
def inverted (s : State) : Bool := !(s.vic.reg 15).getLsbD 3

end Sys2Proof.Machine
end

