-- ==== Sys2Proof/Machine/Operands.lean ====
section
/-! DEFINITION. The address operand resolved to its target: BusRead (R120), BusWrite (R121) and VideoRead (R122). -/

namespace Sys2Proof.Machine

/-- The target of an address under the present configuration (R61). -/
def State.target (s : State) (a : Addr) : Target := decodeAddr s.presence a

/-- The byte a target without side effects gives; the register windows give the floating bus (R64). -/
def storeByte (t : Target) (a : Addr) (s : State) : Byte :=
  match t with
  | .ramLo => s.ramByte a
  | .expram _ => s.ramByte a
  | .ramMid => s.ramByte a
  | .cart c => s.cartByte c a
  | .romChar => romCharByte a
  | .vic _ => floatByte a
  | .via _ _ => floatByte a
  | .colram => s.ramByte a
  | .romBasic => romBasicByte a
  | .romKernal => romKernalByte a
  | .float => floatByte a

/-- VideoRead(a): no side effect anywhere (R122, R64). -/
def videoRead (a : Addr) (s : State) : Byte := storeByte (s.target a) a s

/-- BusRead(a) (R120): only a timer/IO register can have a side effect (R71). -/
def busRead (a : Addr) (s : State) : Byte × State :=
  match s.target a with
  | .vic r => (vicRead r s, s)
  | .via k r => viaRead k r s
  | t => (storeByte t a s, s)

/-- BusWrite(a, v) (R121); a write to anything not writable is discarded (R66). -/
def busWrite (a : Addr) (v : Byte) (s : State) : State :=
  match s.target a with
  | .ramLo => s.setRamByte a v
  | .expram _ => s.setRamByte a v
  | .ramMid => s.setRamByte a v
  | .vic r => vicWrite r v s
  | .via k r => viaWrite k r v s
  | .colram => s.setRamByte a v
  | .cart _ => s
  | .romChar => s
  | .romBasic => s
  | .romKernal => s
  | .float => s

/-- A RD operation: the byte is the operation's result (R91, log 6). -/
def readDone (r : Byte × State) : Host.Outcome State Fault Refusal :=
  .next { r.2 with result := .byte r.1 }

/-- A WR operation. -/
def writeDone (s : State) : Host.Outcome State Fault Refusal := .next s

/-- A VRD operation: only the result changes (R122). -/
def videoDone (a : Addr) (s : State) : Host.Outcome State Fault Refusal :=
  .next { s with result := .byte (videoRead a s) }

end Sys2Proof.Machine
end

