-- ==== Sys2Proof/Machine/BusReads.lean ====
section
/-! DEFINITION. The RD rows of the stores and the floating bus: each is BusRead of its ADDR (R91, R120), the target
being the row the decoder chose (R93). -/

namespace Sys2Proof.Machine

/-- RD.RAM_LO (R120, R123). -/
def execRdRamLo (a : Addr) (s : State) : Host.Outcome State Fault Refusal :=
  readDone (busRead a s)

/-- RD.EXPRAM0 (R120, R124). -/
def execRdExpram0 (a : Addr) (s : State) : Host.Outcome State Fault Refusal :=
  readDone (busRead a s)

/-- RD.RAM_MID (R120, R125). -/
def execRdRamMid (a : Addr) (s : State) : Host.Outcome State Fault Refusal :=
  readDone (busRead a s)

/-- RD.CART0 (R120, R126). -/
def execRdCart0 (a : Addr) (s : State) : Host.Outcome State Fault Refusal :=
  readDone (busRead a s)

/-- RD.EXPRAM1 (R120, R126). -/
def execRdExpram1 (a : Addr) (s : State) : Host.Outcome State Fault Refusal :=
  readDone (busRead a s)

/-- RD.CART1 (R120, R126). -/
def execRdCart1 (a : Addr) (s : State) : Host.Outcome State Fault Refusal :=
  readDone (busRead a s)

/-- RD.EXPRAM2 (R120, R126). -/
def execRdExpram2 (a : Addr) (s : State) : Host.Outcome State Fault Refusal :=
  readDone (busRead a s)

/-- RD.CART2 (R120, R126). -/
def execRdCart2 (a : Addr) (s : State) : Host.Outcome State Fault Refusal :=
  readDone (busRead a s)

/-- RD.EXPRAM3 (R120, R126). -/
def execRdExpram3 (a : Addr) (s : State) : Host.Outcome State Fault Refusal :=
  readDone (busRead a s)

/-- RD.ROM_CHAR (R120, R127). -/
def execRdRomChar (a : Addr) (s : State) : Host.Outcome State Fault Refusal :=
  readDone (busRead a s)

/-- RD.COLRAM (R120, R130). -/
def execRdColram (a : Addr) (s : State) : Host.Outcome State Fault Refusal :=
  readDone (busRead a s)

/-- RD.CART3 (R120, R131). -/
def execRdCart3 (a : Addr) (s : State) : Host.Outcome State Fault Refusal :=
  readDone (busRead a s)

/-- RD.EXPRAM4 (R120, R131). -/
def execRdExpram4 (a : Addr) (s : State) : Host.Outcome State Fault Refusal :=
  readDone (busRead a s)

/-- RD.ROM_BASIC (R120, R132). -/
def execRdRomBasic (a : Addr) (s : State) : Host.Outcome State Fault Refusal :=
  readDone (busRead a s)

/-- RD.ROM_KERNAL (R120, R132). -/
def execRdRomKernal (a : Addr) (s : State) : Host.Outcome State Fault Refusal :=
  readDone (busRead a s)

/-- RD.FLOAT (R120, R133). -/
def execRdFloat (a : Addr) (s : State) : Host.Outcome State Fault Refusal :=
  readDone (busRead a s)

end Sys2Proof.Machine
end

