-- ==== Sys2Proof/Machine/BusWrites.lean ====
section
/-! DEFINITION. The WR rows of the stores and the floating bus: each is BusWrite of its ADDR and DATA (R91, R121). -/

namespace Sys2Proof.Machine

/-- WR.RAM_LO (R121, R123). -/
def execWrRamLo (a : Addr) (v : Byte) (s : State) : Host.Outcome State Fault Refusal :=
  writeDone (busWrite a v s)

/-- WR.EXPRAM0 (R121, R124). -/
def execWrExpram0 (a : Addr) (v : Byte) (s : State) : Host.Outcome State Fault Refusal :=
  writeDone (busWrite a v s)

/-- WR.RAM_MID (R121, R125). -/
def execWrRamMid (a : Addr) (v : Byte) (s : State) : Host.Outcome State Fault Refusal :=
  writeDone (busWrite a v s)

/-- WR.CART0 (R121, R126). -/
def execWrCart0 (a : Addr) (v : Byte) (s : State) : Host.Outcome State Fault Refusal :=
  writeDone (busWrite a v s)

/-- WR.EXPRAM1 (R121, R126). -/
def execWrExpram1 (a : Addr) (v : Byte) (s : State) : Host.Outcome State Fault Refusal :=
  writeDone (busWrite a v s)

/-- WR.CART1 (R121, R126). -/
def execWrCart1 (a : Addr) (v : Byte) (s : State) : Host.Outcome State Fault Refusal :=
  writeDone (busWrite a v s)

/-- WR.EXPRAM2 (R121, R126). -/
def execWrExpram2 (a : Addr) (v : Byte) (s : State) : Host.Outcome State Fault Refusal :=
  writeDone (busWrite a v s)

/-- WR.CART2 (R121, R126). -/
def execWrCart2 (a : Addr) (v : Byte) (s : State) : Host.Outcome State Fault Refusal :=
  writeDone (busWrite a v s)

/-- WR.EXPRAM3 (R121, R126). -/
def execWrExpram3 (a : Addr) (v : Byte) (s : State) : Host.Outcome State Fault Refusal :=
  writeDone (busWrite a v s)

/-- WR.ROM_CHAR (R121, R127). -/
def execWrRomChar (a : Addr) (v : Byte) (s : State) : Host.Outcome State Fault Refusal :=
  writeDone (busWrite a v s)

/-- WR.COLRAM (R121, R130). -/
def execWrColram (a : Addr) (v : Byte) (s : State) : Host.Outcome State Fault Refusal :=
  writeDone (busWrite a v s)

/-- WR.CART3 (R121, R131). -/
def execWrCart3 (a : Addr) (v : Byte) (s : State) : Host.Outcome State Fault Refusal :=
  writeDone (busWrite a v s)

/-- WR.EXPRAM4 (R121, R131). -/
def execWrExpram4 (a : Addr) (v : Byte) (s : State) : Host.Outcome State Fault Refusal :=
  writeDone (busWrite a v s)

/-- WR.ROM_BASIC (R121, R132). -/
def execWrRomBasic (a : Addr) (v : Byte) (s : State) : Host.Outcome State Fault Refusal :=
  writeDone (busWrite a v s)

/-- WR.ROM_KERNAL (R121, R132). -/
def execWrRomKernal (a : Addr) (v : Byte) (s : State) : Host.Outcome State Fault Refusal :=
  writeDone (busWrite a v s)

/-- WR.FLOAT (R121, R133). -/
def execWrFloat (a : Addr) (v : Byte) (s : State) : Host.Outcome State Fault Refusal :=
  writeDone (busWrite a v s)

end Sys2Proof.Machine
end

