-- ==== Sys2Proof/Machine/Ticks.lean ====
section
/-! DEFINITION. One elapsed CPU cycle: the timer/IO tick (R184-R187), the video tick and its pixel group (R215-R222),
and the fan-out that samples the interrupt lines (R252-R254). -/

namespace Sys2Proof.Machine

/-- Timer 1 (R185). -/
def tickT1 (v : Via) : Via :=
  if 0 < v.t1pre then { v with t1pre := v.t1pre - 1 }
  else
    let c := v.t1c - 1
    if c = 0 ∧ v.t1trig = false then
      if v.acr.getLsbD 6 then { v with t1c := v.t1l, ifr := setFlags v.ifr flagT1, t1pre := 2 }
      else { v with t1c := c, ifr := setFlags v.ifr flagT1, t1trig := true }
    else { v with t1c := c }

/-- Timer 2 (R186): held in pulse-counting mode. -/
def tickT2 (v : Via) : Via :=
  if v.acr.getLsbD 5 then v
  else
    let c := v.t2c - 1
    if c = 0 ∧ v.t2trig = false then { v with t2c := c, t2trig := true, ifr := setFlags v.ifr flagT2 }
    else { v with t2c := c }

/-- The control-line edge detector (R187): CA1 alone is evaluated, in the direction PCR[0] selects. -/
def tickEdges (v : Via) : Via :=
  { v with
    ifr := if v.ca1 ≠ v.ca1Prev ∧ v.ca1 = v.pcr.getLsbD 0 then setFlags v.ifr flagCa1 else v.ifr
    ca1Prev := v.ca1
    ca2Prev := v.ca2
    cb1Prev := v.cb1
    cb2Prev := v.cb2 }

/-- ViaTick(k) (R184). -/
def viaTick (v : Via) : Via := tickEdges (tickT2 (tickT1 v))

/-- The pixel lies in the character area (R217). -/
def inArea (px y : Nat) (s : State) : Bool :=
  decide (leftEdge s ≤ px) && decide (px < leftEdge s + areaW s) &&
  decide (topEdge s ≤ y) && decide (y < topEdge s + areaH s)

/-- The index of the pixel's cell in the matrices (R218). -/
def cellIndex (px y : Nat) (s : State) : Nat :=
  (y - topEdge s) / charH s * cols s + (px - leftEdge s) / 8

/-- The character code of the pixel's cell (R218). -/
def cellCode (px y : Nat) (s : State) : Byte :=
  videoRead (screenBase s + BitVec.ofNat 16 (cellIndex px y s)) s

/-- The colour nibble of the pixel's cell (R218). -/
def cellColor (px y : Nat) (s : State) : BitVec 4 :=
  (videoRead (colorBase s + BitVec.ofNat 16 (cellIndex px y s)) s).extractLsb' 0 4

/-- The address of glyph row `gr` of a character: formed in video address space, modulo 2^14, then mapped (R218,
R223). -/
def glyphAddr (code : Byte) (gr : Nat) (s : State) : Addr :=
  va2cpu (charVa s + BitVec.ofNat 14 (code.toNat * charH s + gr))

/-- The bitmap byte of the pixel's cell on its scan row (R218). -/
def cellBits (px y : Nat) (s : State) : Byte :=
  videoRead (glyphAddr (cellCode px y s) ((y - topEdge s) % charH s) s) s

/-- A hi-resolution pixel, one bit each, bit 7 leftmost (R220). -/
def hiresColor (bits : Byte) (cnib : BitVec 4) (b : Nat) (s : State) : BitVec 4 :=
  let fg : BitVec 4 := 0#1 ++ cnib.extractLsb' 0 3
  if inverted s then (if bits.getLsbD (7 - b) then backgroundColor s else fg)
  else (if bits.getLsbD (7 - b) then fg else backgroundColor s)

/-- A multicolour pixel, two bits for two pixels; INVERT has no effect (R221). -/
def multiColor (bits : Byte) (cnib : BitVec 4) (b : Nat) (s : State) : BitVec 4 :=
  match (bits.extractLsb' (6 - 2 * (b / 2)) 2).toFin with
  | 0 => backgroundColor s
  | 1 => borderColor s
  | 2 => 0#1 ++ cnib.extractLsb' 0 3
  | 3 => auxColor s

/-- PixelColor(px, y) (R219-R221). -/
def pixelColor (px y : Nat) (s : State) : BitVec 4 :=
  if inArea px y s then
    let cnib := cellColor px y s
    let b := (px - leftEdge s) % 8
    if cnib.getLsbD 3 then multiColor (cellBits px y s) cnib b s
    else hiresColor (cellBits px y s) cnib b s
  else borderColor s

/-- The Pixel events of a group, in ascending order (R217, R222). -/
def groupPixels (x y n : Nat) (s : State) : List Event :=
  (List.range n).map fun i => .pixel (x + i) y (pixelColor (x + i) y s)

/-- RenderGroup(x, y) (R217). -/
def renderGroup (x y : Nat) (s : State) : State :=
  { s with events := (groupPixels x y s.params.stride s).reverse ++ s.events }

/-- InActive(x, y) (R216). -/
def inActive (x y : Nat) (p : Config.Params) : Bool :=
  decide (p.activeX0 ≤ x) && decide (x < p.activeX1) && decide (p.activeY0 ≤ y) && decide (y < p.activeY1)

/-- The scan counter advance (R215). -/
def advanceScan (p : Config.Params) (v : Vic) : Vic :=
  if v.hpos + p.stride < p.htotal then { v with hpos := v.hpos + p.stride }
  else if v.vpos + 1 < p.vtotal then { v with hpos := 0, vpos := v.vpos + 1 }
  else { v with hpos := 0, vpos := 0 }

/-- VicTick (R215): advance, then render at the new position. -/
def vicTick (s : State) : State :=
  let s' := { s with vic := advanceScan s.params s.vic }
  if inActive s'.vic.hpos s'.vic.vpos s.params then renderGroup s'.vic.hpos s'.vic.vpos s' else s'

/-- VIA1's half of the fan-out: tick, sample the line, deliver an NMI on a rising edge (R253). -/
def tickVia1 (s : State) : State :=
  let s1 := { s with via1 := viaTick s.via1 }
  let line := irqLine s1.via1
  let s2 := if line && !s.nmiPrev then deliverNmi s1 else s1
  { s2 with nmiPrev := line }

/-- VIA2's half of the fan-out: tick, deliver an IRQ while the line is up and the CPU allows it (R254). -/
def tickVia2 (s : State) : State :=
  let s1 := { s with via2 := viaTick s.via2 }
  let ask := askIrqEnabled s1
  if irqLine s1.via2 && ask.1 then deliverIrq ask.2 else ask.2

/-- Tick(), the per-cycle fan-out (R252). -/
def tick (s : State) : State := vicTick (tickVia2 (tickVia1 s))

/-- c ticks. -/
def ticks : Nat → State → State
  | 0, s => s
  | n + 1, s => ticks n (tick s)

end Sys2Proof.Machine
end

