-- ==== Sys2Proof/Machine/Orchestrator.lean ====
section
/-! DEFINITION. The orchestrator's operations over the whole block: the frame run (R250, R251), character injection
(R257, R258), reset (R320-R322), RAM configuration (R267, R268) and the two loaders (R269-R274). -/

namespace Sys2Proof.Machine

/-- One bus access of the external CPU; the byte of a read goes to the CPU (R251). -/
def cpuAccess (s : State) (x : BusAccess) : State :=
  match x with
  | .read a =>
    let r := busRead a s
    { r.2 with cpu := { r.2.cpu with reads := r.1 :: r.2.cpu.reads } }
  | .write a v => busWrite a v s

/-- The bus accesses of one CPU step, in order (R251). -/
def cpuAccesses (xs : List BusAccess) (s : State) : State := xs.foldl cpuAccess s

/-- One CPU step and its ticks: all the accesses come before any tick (R251). -/
def runCpuStep (c : CpuStep) (s : State) : State := ticks c.cycles (cpuAccesses c.accesses s)

/-- The CpuStep answer at the head of the list, and the rest of the list. -/
def nextCpuStep (idle : CpuStep) (steps : List CpuStep) : CpuStep × List CpuStep :=
  match steps with
  | [] => (idle, [])
  | c :: rest => (c, rest)

/-- The loop of RunFrame (R250). `fuel` bounds the iterations; `budget - acc` is enough, since every step that is not
refused consumes a cycle. Answers acc, the CpuStep answers left over and the state; none when a CpuStep returns 0
(R251). -/
def frameLoop (budget : Nat) (idle : CpuStep) :
    Nat → Nat → List CpuStep → State → Option (Nat × List CpuStep × State)
  | 0, acc, steps, s => some (acc, steps, s)
  | fuel + 1, acc, steps, s =>
    if acc < budget then
      let c := nextCpuStep idle steps
      if c.1.cycles = 0 then none
      else frameLoop budget idle fuel (acc + c.1.cycles) c.2 (runCpuStep c.1 s)
    else some (acc, steps, s)

/-- The writing loop of ServiceInjection over the characters still to come: answers how many were written, and the
state (R257). -/
def injectLoop (m : Byte) : List Byte → Byte → Nat → State → Nat × State
  | [], _, i, s => (i, s)
  | ch :: rest, n, i, s =>
    if n < m then
      injectLoop m rest (n + 1) (i + 1)
        (busWrite s.params.ndxAddr (n + 1)
          (busWrite (s.params.kbufAddr + n.setWidth 16) ch s))
    else (i, s)

/-- INJ after some of its characters were written. -/
def injectionLeft (text : List Byte) (i : Nat) : Option Injection :=
  if i = text.length then none else some { text := text, idx := i }

/-- ServiceInjection (R257). -/
def serviceInjection (s : State) : State :=
  match s.inj with
  | none => s
  | some j =>
    let rn := busRead s.params.ndxAddr s
    let rm := busRead s.params.xmaxAddr rn.2
    let out := injectLoop rm.1 (j.text.drop j.idx) rn.1 j.idx rm.2
    { out.2 with inj := injectionLeft j.text out.1 }

/-- RunFrame (R250), with the carry of R256. A refused CpuStep refuses the whole operation (log 16). -/
def runFrame (s : State) : Option State :=
  match frameLoop s.params.frameBudget s.cpu.idle (s.params.frameBudget - s.fcarry) s.fcarry s.cpu.steps s with
  | none => none
  | some (acc, steps, s1) =>
    let s2 := { s1 with cpu := { s1.cpu with steps := steps }, fcarry := acc - s.params.frameBudget }
    let s3 := serviceInjection s2
    some { s3 with result := .cycles acc }

/-- CpuReset (R96, R322): the external CPU resets itself, making the bus accesses of its own reset logic. -/
def cpuReset (s : State) : State :=
  let s1 := { s with cpu := { s.cpu with resetCount := s.cpu.resetCount + 1 } }
  match s1.cpu.resetAccesses with
  | [] => s1
  | xs :: rest => cpuAccesses xs { s1 with cpu := { s1.cpu with resetAccesses := rest } }

/-- Every owned component at its power-on value; RAM, EXPRAM, CART and INJ are kept (R320, R321). -/
def resetComponents (s : State) : State :=
  { s with
    via1 := Via.reset
    via2 := Via.reset
    vic := Vic.reset
    nmiPrev := false
    fcarry := 0
    kbd := Vector.replicate 8 (Vector.replicate 8 false)
    joyUp := false
    joyDown := false
    joyLeft := false
    joyRight := false
    joyFire := false }

/-- Reset(): the components, then the CPU (R320, R322). -/
def doReset (s : State) : State := cpuReset (resetComponents s)

/-- The RAM ladder (R267). -/
def ladder (r : RamPreset) : Vector Bool 5 :=
  match r with
  | .unexp => #v[false, false, false, false, false]
  | .k3 => #v[true, false, false, false, false]
  | .k8 => #v[false, true, false, false, false]
  | .k16 => #v[false, true, true, false, false]
  | .k24 => #v[false, true, true, true, false]
  | .k27 => #v[true, true, true, true, false]
  | .k32 => #v[false, true, true, true, true]
  | .k35 => #v[true, true, true, true, true]

/-- The expansion block a bus address belongs to (R23). -/
def expBlockOf (n : Nat) : Option (Fin 5) :=
  if n < 0x0400 then none
  else if n < 0x1000 then some 0
  else if n < 0x2000 then none
  else if n < 0x4000 then some 1
  else if n < 0x6000 then some 2
  else if n < 0x8000 then some 3
  else if n < 0xA000 then none
  else if n < 0xC000 then some 4
  else none

/-- A cell survives a change of presence: fixed RAM does, and a block that was present and stays present keeps its
contents; any other block holds RAM_INIT afterwards (R268). -/
def cellKept (old new : Vector Bool 5) (c : Host.Cell) : Bool :=
  match expBlockOf c.1 with
  | none => true
  | some b => old[b] && new[b]

/-- RAMCFG (R267, R268). -/
def configureRam (r : RamPreset) (s : State) : State :=
  { s with expram := ladder r, ram := s.ram.filter (cellKept s.expram (ladder r)) }

/-- The length is one a cartridge image may have (R271). -/
def cartSized (n : Nat) : Bool := n == 4096 || n == 8192

/-- The trim: leading bytes are discarded one at a time until the length is recognised or nothing is left (R271). -/
def trimCart : List Byte → List Byte
  | [] => []
  | b :: rest => if cartSized (rest.length + 1) then b :: rest else trimCart rest

/-- The slot of a load address (R272). -/
def cartSlot (a : Addr) : Option (Fin 4) :=
  if a = 0x2000 then some 0
  else if a = 0x4000 then some 1
  else if a = 0x6000 then some 2
  else if a = 0xA000 then some 3
  else none

/-- The install: an address outside the set does nothing, the optional reset included (R272, log 12). -/
def installCart (a : Addr) (data : List Byte) (doRst : Bool) (s : State) : State :=
  match cartSlot a with
  | none => s
  | some c =>
    let s1 := { s with cart := s.cart.set c (some data) }
    if doRst then doReset s1 else s1

/-- Auto-detect: the header's load address, when the length is header plus 4096 or 8192; otherwise nothing (R269). -/
def autoCart (buf : List Byte) (doRst : Bool) (s : State) : State :=
  match buf with
  | lo :: hi :: data => if cartSized data.length then installCart (word16 hi lo) data doRst s else s
  | _ => s

/-- CART (R269, R270). -/
def loadCart (a : Addr) (doRst : Bool) (buf : List Byte) (s : State) : State :=
  if a = 0 then autoCart buf doRst s else installCart a (trimCart buf) doRst s

/-- Bytes written upward from an address, wrapping modulo 2^16 (R273). -/
def writeBytes : Addr → List Byte → State → State
  | _, [], s => s
  | a, b :: rest, s => writeBytes (a + 1) rest (busWrite a b s)

/-- The guest pointers, low byte first (R273). -/
def patchPtrs : List Addr → BitVec 16 → State → State
  | [], _, s => s
  | p :: ps, e, s => patchPtrs ps e (busWrite (p + 1) (hiByte e) (busWrite p (loByte e) s))

/-- "RUN" and a carriage return (R274). -/
def runText : List Byte := [0x52, 0x55, 0x4E, 0x0D]

/-- LoadPrg (R273, R274). -/
def loadPrg (buf : List Byte) (run : Bool) (s : State) : State :=
  match buf with
  | lo :: hi :: data =>
    let l := word16 hi lo
    let s1 := writeBytes l data s
    let s2 := patchPtrs s.params.prgPtrs (l + BitVec.ofNat 16 data.length) s1
    if run then { s2 with inj := some { text := runText, idx := 0 } } else s2
  | _ => s

/-- INJECT: the buffer up to its first zero byte replaces a pending injection (R258). -/
def startInjection (buf : List Byte) (s : State) : State :=
  { s with inj := some { text := buf.takeWhile (fun b => b != 0), idx := 0 } }

/-- KEY (R264). -/
def setKey (pressed : Bool) (r c : Fin 8) (s : State) : State :=
  { s with kbd := s.kbd.set r ((s.kbd[r]).set c pressed) }

/-- JOY (R265). -/
def setJoy (pressed : Bool) (b : Button) (s : State) : State :=
  match b with
  | .up => { s with joyUp := pressed }
  | .down => { s with joyDown := pressed }
  | .left => { s with joyLeft := pressed }
  | .right => { s with joyRight := pressed }
  | .fire => { s with joyFire := pressed }

/-- The level of a control line of one core. -/
def setLevel (v : Via) (l : ControlLine) (level : Bool) : Via :=
  match l with
  | .ca1 => { v with ca1 := level }
  | .ca2 => { v with ca2 := level }
  | .cb1 => { v with cb1 := level }
  | .cb2 => { v with cb2 := level }

/-- LINE (R266). -/
def setLine (k : ViaId) (level : Bool) (l : ControlLine) (s : State) : State :=
  s.setVia k (setLevel (s.via k) l level)

end Sys2Proof.Machine
end

