-- ==== Sys2Proof/Machine/HostOps.lean ====
section
/-! DEFINITION. The meanings of TICK, FRAME, RESET and the host operations (R250-R275, R320), and of the reserved
rows (R95). -/

namespace Sys2Proof.Machine

/-- TICK (R252). -/
def execTick (s : State) : Host.Outcome State Fault Refusal := .next (tick s)

/-- FRAME (R250); a CpuStep of 0 cycles refuses it (R251). -/
def execFrame (s : State) : Host.Outcome State Fault Refusal :=
  match runFrame s with
  | some s' => .next s'
  | none => .refused .cpuStepZero

/-- RESET (R320). -/
def execReset (s : State) : Host.Outcome State Fault Refusal := .next (doReset s)

/-- KEY (R264). -/
def execKey (pressed : Bool) (r c : Fin 8) (s : State) : Host.Outcome State Fault Refusal :=
  .next (setKey pressed r c s)

/-- JOY (R265). -/
def execJoy (pressed : Bool) (button : Button) (s : State) : Host.Outcome State Fault Refusal :=
  .next (setJoy pressed button s)

/-- LINE (R266). -/
def execLine (via : ViaId) (level : Bool) (l : ControlLine) (s : State) :
    Host.Outcome State Fault Refusal :=
  .next (setLine via level l s)

/-- RAMCFG (R267, R268). -/
def execRamcfg (preset : RamPreset) (s : State) : Host.Outcome State Fault Refusal :=
  .next (configureRam preset s)

/-- CART (R269-R272). -/
def execCart (addr : Addr) (doReset : Bool) (buf : List Byte) (s : State) : Host.Outcome State Fault Refusal :=
  .next (loadCart addr doReset buf s)

/-- PRG (R273, R274). -/
def execPrg (run : Bool) (buf : List Byte) (s : State) : Host.Outcome State Fault Refusal :=
  .next (loadPrg buf run s)

/-- INJECT (R258). -/
def execInject (buf : List Byte) (s : State) : Host.Outcome State Fault Refusal := .next (startInjection buf s)

/-- RESERVED.OPC13-13: no meaning and no step (R95). -/
def execReservedOpc13 (_rest : BitVec 27) (_s : State) : Host.Outcome State Fault Refusal :=
  .refused .reservedOpc

/-- RESERVED.OPC14-15: no meaning and no step (R95). -/
def execReservedOpc14to15 (_rest : BitVec 28) (_s : State) : Host.Outcome State Fault Refusal :=
  .refused .reservedOpc

/-- RESERVED.OPC16-31: no meaning and no step (R95). -/
def execReservedOpc16to31 (_rest : BitVec 31) (_s : State) : Host.Outcome State Fault Refusal :=
  .refused .reservedOpc

end Sys2Proof.Machine
end

