-- ==== Sys2Proof/Machine/ViaReads.lean ====
section
/-! DEFINITION. The RD rows of the timer/IO registers (R150, R152-R166). -/

namespace Sys2Proof.Machine

/-- RD.VIA1.ORB (R152). -/
def execRdVia1Orb (s : State) : Host.Outcome State Fault Refusal :=
  readDone (viaReadOrb .via1 s)

/-- RD.VIA1.ORA (R153). -/
def execRdVia1Ora (s : State) : Host.Outcome State Fault Refusal :=
  readDone (viaReadOra .via1 s)

/-- RD.VIA1.DDRB (R154). -/
def execRdVia1Ddrb (s : State) : Host.Outcome State Fault Refusal :=
  readDone (viaReadDdrb .via1 s)

/-- RD.VIA1.DDRA (R154). -/
def execRdVia1Ddra (s : State) : Host.Outcome State Fault Refusal :=
  readDone (viaReadDdra .via1 s)

/-- RD.VIA1.T1C_L (R155). -/
def execRdVia1T1cL (s : State) : Host.Outcome State Fault Refusal :=
  readDone (viaReadT1cL .via1 s)

/-- RD.VIA1.T1C_H (R156). -/
def execRdVia1T1cH (s : State) : Host.Outcome State Fault Refusal :=
  readDone (viaReadT1cH .via1 s)

/-- RD.VIA1.T1L_L (R157). -/
def execRdVia1T1lL (s : State) : Host.Outcome State Fault Refusal :=
  readDone (viaReadT1lL .via1 s)

/-- RD.VIA1.T1L_H (R158). -/
def execRdVia1T1lH (s : State) : Host.Outcome State Fault Refusal :=
  readDone (viaReadT1lH .via1 s)

/-- RD.VIA1.T2C_L (R159). -/
def execRdVia1T2cL (s : State) : Host.Outcome State Fault Refusal :=
  readDone (viaReadT2cL .via1 s)

/-- RD.VIA1.T2C_H (R160). -/
def execRdVia1T2cH (s : State) : Host.Outcome State Fault Refusal :=
  readDone (viaReadT2cH .via1 s)

/-- RD.VIA1.SR (R161). -/
def execRdVia1Sr (s : State) : Host.Outcome State Fault Refusal :=
  readDone (viaReadSr .via1 s)

/-- RD.VIA1.ACR (R162). -/
def execRdVia1Acr (s : State) : Host.Outcome State Fault Refusal :=
  readDone (viaReadAcr .via1 s)

/-- RD.VIA1.PCR (R163). -/
def execRdVia1Pcr (s : State) : Host.Outcome State Fault Refusal :=
  readDone (viaReadPcr .via1 s)

/-- RD.VIA1.IFR (R164). -/
def execRdVia1Ifr (s : State) : Host.Outcome State Fault Refusal :=
  readDone (viaReadIfr .via1 s)

/-- RD.VIA1.IER (R165). -/
def execRdVia1Ier (s : State) : Host.Outcome State Fault Refusal :=
  readDone (viaReadIer .via1 s)

/-- RD.VIA1.ORA_NH (R166). -/
def execRdVia1OraNh (s : State) : Host.Outcome State Fault Refusal :=
  readDone (viaReadOraNh .via1 s)

/-- RD.VIA2.ORB (R152). -/
def execRdVia2Orb (s : State) : Host.Outcome State Fault Refusal :=
  readDone (viaReadOrb .via2 s)

/-- RD.VIA2.ORA (R153). -/
def execRdVia2Ora (s : State) : Host.Outcome State Fault Refusal :=
  readDone (viaReadOra .via2 s)

/-- RD.VIA2.DDRB (R154). -/
def execRdVia2Ddrb (s : State) : Host.Outcome State Fault Refusal :=
  readDone (viaReadDdrb .via2 s)

/-- RD.VIA2.DDRA (R154). -/
def execRdVia2Ddra (s : State) : Host.Outcome State Fault Refusal :=
  readDone (viaReadDdra .via2 s)

/-- RD.VIA2.T1C_L (R155). -/
def execRdVia2T1cL (s : State) : Host.Outcome State Fault Refusal :=
  readDone (viaReadT1cL .via2 s)

/-- RD.VIA2.T1C_H (R156). -/
def execRdVia2T1cH (s : State) : Host.Outcome State Fault Refusal :=
  readDone (viaReadT1cH .via2 s)

/-- RD.VIA2.T1L_L (R157). -/
def execRdVia2T1lL (s : State) : Host.Outcome State Fault Refusal :=
  readDone (viaReadT1lL .via2 s)

/-- RD.VIA2.T1L_H (R158). -/
def execRdVia2T1lH (s : State) : Host.Outcome State Fault Refusal :=
  readDone (viaReadT1lH .via2 s)

/-- RD.VIA2.T2C_L (R159). -/
def execRdVia2T2cL (s : State) : Host.Outcome State Fault Refusal :=
  readDone (viaReadT2cL .via2 s)

/-- RD.VIA2.T2C_H (R160). -/
def execRdVia2T2cH (s : State) : Host.Outcome State Fault Refusal :=
  readDone (viaReadT2cH .via2 s)

/-- RD.VIA2.SR (R161). -/
def execRdVia2Sr (s : State) : Host.Outcome State Fault Refusal :=
  readDone (viaReadSr .via2 s)

/-- RD.VIA2.ACR (R162). -/
def execRdVia2Acr (s : State) : Host.Outcome State Fault Refusal :=
  readDone (viaReadAcr .via2 s)

/-- RD.VIA2.PCR (R163). -/
def execRdVia2Pcr (s : State) : Host.Outcome State Fault Refusal :=
  readDone (viaReadPcr .via2 s)

/-- RD.VIA2.IFR (R164). -/
def execRdVia2Ifr (s : State) : Host.Outcome State Fault Refusal :=
  readDone (viaReadIfr .via2 s)

/-- RD.VIA2.IER (R165). -/
def execRdVia2Ier (s : State) : Host.Outcome State Fault Refusal :=
  readDone (viaReadIer .via2 s)

/-- RD.VIA2.ORA_NH (R166). -/
def execRdVia2OraNh (s : State) : Host.Outcome State Fault Refusal :=
  readDone (viaReadOraNh .via2 s)

end Sys2Proof.Machine
end

