-- ==== Sys2Proof/Machine/ViaWrites.lean ====
section
/-! DEFINITION. The WR rows of the timer/IO registers (R151, R167-R181). -/

namespace Sys2Proof.Machine

/-- WR.VIA1.ORB (R167). -/
def execWrVia1Orb (v : Byte) (s : State) : Host.Outcome State Fault Refusal :=
  writeDone (viaWriteOrb .via1 v s)

/-- WR.VIA1.ORA (R168). -/
def execWrVia1Ora (v : Byte) (s : State) : Host.Outcome State Fault Refusal :=
  writeDone (viaWriteOra .via1 v s)

/-- WR.VIA1.DDRB (R169). -/
def execWrVia1Ddrb (v : Byte) (s : State) : Host.Outcome State Fault Refusal :=
  writeDone (viaWriteDdrb .via1 v s)

/-- WR.VIA1.DDRA (R169). -/
def execWrVia1Ddra (v : Byte) (s : State) : Host.Outcome State Fault Refusal :=
  writeDone (viaWriteDdra .via1 v s)

/-- WR.VIA1.T1C_L (R170). -/
def execWrVia1T1cL (v : Byte) (s : State) : Host.Outcome State Fault Refusal :=
  writeDone (viaWriteT1cL .via1 v s)

/-- WR.VIA1.T1C_H (R171). -/
def execWrVia1T1cH (v : Byte) (s : State) : Host.Outcome State Fault Refusal :=
  writeDone (viaWriteT1cH .via1 v s)

/-- WR.VIA1.T1L_L (R172). -/
def execWrVia1T1lL (v : Byte) (s : State) : Host.Outcome State Fault Refusal :=
  writeDone (viaWriteT1lL .via1 v s)

/-- WR.VIA1.T1L_H (R173). -/
def execWrVia1T1lH (v : Byte) (s : State) : Host.Outcome State Fault Refusal :=
  writeDone (viaWriteT1lH .via1 v s)

/-- WR.VIA1.T2C_L (R174). -/
def execWrVia1T2cL (v : Byte) (s : State) : Host.Outcome State Fault Refusal :=
  writeDone (viaWriteT2cL .via1 v s)

/-- WR.VIA1.T2C_H (R175). -/
def execWrVia1T2cH (v : Byte) (s : State) : Host.Outcome State Fault Refusal :=
  writeDone (viaWriteT2cH .via1 v s)

/-- WR.VIA1.SR (R176). -/
def execWrVia1Sr (v : Byte) (s : State) : Host.Outcome State Fault Refusal :=
  writeDone (viaWriteSr .via1 v s)

/-- WR.VIA1.ACR (R177). -/
def execWrVia1Acr (v : Byte) (s : State) : Host.Outcome State Fault Refusal :=
  writeDone (viaWriteAcr .via1 v s)

/-- WR.VIA1.PCR (R178). -/
def execWrVia1Pcr (v : Byte) (s : State) : Host.Outcome State Fault Refusal :=
  writeDone (viaWritePcr .via1 v s)

/-- WR.VIA1.IFR (R179). -/
def execWrVia1Ifr (v : Byte) (s : State) : Host.Outcome State Fault Refusal :=
  writeDone (viaWriteIfr .via1 v s)

/-- WR.VIA1.IER (R180). -/
def execWrVia1Ier (v : Byte) (s : State) : Host.Outcome State Fault Refusal :=
  writeDone (viaWriteIer .via1 v s)

/-- WR.VIA1.ORA_NH (R181). -/
def execWrVia1OraNh (v : Byte) (s : State) : Host.Outcome State Fault Refusal :=
  writeDone (viaWriteOraNh .via1 v s)

/-- WR.VIA2.ORB (R167). -/
def execWrVia2Orb (v : Byte) (s : State) : Host.Outcome State Fault Refusal :=
  writeDone (viaWriteOrb .via2 v s)

/-- WR.VIA2.ORA (R168). -/
def execWrVia2Ora (v : Byte) (s : State) : Host.Outcome State Fault Refusal :=
  writeDone (viaWriteOra .via2 v s)

/-- WR.VIA2.DDRB (R169). -/
def execWrVia2Ddrb (v : Byte) (s : State) : Host.Outcome State Fault Refusal :=
  writeDone (viaWriteDdrb .via2 v s)

/-- WR.VIA2.DDRA (R169). -/
def execWrVia2Ddra (v : Byte) (s : State) : Host.Outcome State Fault Refusal :=
  writeDone (viaWriteDdra .via2 v s)

/-- WR.VIA2.T1C_L (R170). -/
def execWrVia2T1cL (v : Byte) (s : State) : Host.Outcome State Fault Refusal :=
  writeDone (viaWriteT1cL .via2 v s)

/-- WR.VIA2.T1C_H (R171). -/
def execWrVia2T1cH (v : Byte) (s : State) : Host.Outcome State Fault Refusal :=
  writeDone (viaWriteT1cH .via2 v s)

/-- WR.VIA2.T1L_L (R172). -/
def execWrVia2T1lL (v : Byte) (s : State) : Host.Outcome State Fault Refusal :=
  writeDone (viaWriteT1lL .via2 v s)

/-- WR.VIA2.T1L_H (R173). -/
def execWrVia2T1lH (v : Byte) (s : State) : Host.Outcome State Fault Refusal :=
  writeDone (viaWriteT1lH .via2 v s)

/-- WR.VIA2.T2C_L (R174). -/
def execWrVia2T2cL (v : Byte) (s : State) : Host.Outcome State Fault Refusal :=
  writeDone (viaWriteT2cL .via2 v s)

/-- WR.VIA2.T2C_H (R175). -/
def execWrVia2T2cH (v : Byte) (s : State) : Host.Outcome State Fault Refusal :=
  writeDone (viaWriteT2cH .via2 v s)

/-- WR.VIA2.SR (R176). -/
def execWrVia2Sr (v : Byte) (s : State) : Host.Outcome State Fault Refusal :=
  writeDone (viaWriteSr .via2 v s)

/-- WR.VIA2.ACR (R177). -/
def execWrVia2Acr (v : Byte) (s : State) : Host.Outcome State Fault Refusal :=
  writeDone (viaWriteAcr .via2 v s)

/-- WR.VIA2.PCR (R178). -/
def execWrVia2Pcr (v : Byte) (s : State) : Host.Outcome State Fault Refusal :=
  writeDone (viaWritePcr .via2 v s)

/-- WR.VIA2.IFR (R179). -/
def execWrVia2Ifr (v : Byte) (s : State) : Host.Outcome State Fault Refusal :=
  writeDone (viaWriteIfr .via2 v s)

/-- WR.VIA2.IER (R180). -/
def execWrVia2Ier (v : Byte) (s : State) : Host.Outcome State Fault Refusal :=
  writeDone (viaWriteIer .via2 v s)

/-- WR.VIA2.ORA_NH (R181). -/
def execWrVia2OraNh (v : Byte) (s : State) : Host.Outcome State Fault Refusal :=
  writeDone (viaWriteOraNh .via2 v s)

end Sys2Proof.Machine
end

