-- ==== Sys2Proof/Machine/VicReads.lean ====
section
/-! DEFINITION. The RD rows of the video registers (R200, R202, R203). -/

namespace Sys2Proof.Machine

/-- RD.VIC.REG0 (R202). -/
def execRdVicReg0 (s : State) : Host.Outcome State Fault Refusal :=
  readDone (vicRead 0 s, s)

/-- RD.VIC.REG1 (R202). -/
def execRdVicReg1 (s : State) : Host.Outcome State Fault Refusal :=
  readDone (vicRead 1 s, s)

/-- RD.VIC.REG2 (R202). -/
def execRdVicReg2 (s : State) : Host.Outcome State Fault Refusal :=
  readDone (vicRead 2 s, s)

/-- RD.VIC.REG3 (R203). -/
def execRdVicReg3 (s : State) : Host.Outcome State Fault Refusal :=
  readDone (vicRead 3 s, s)

/-- RD.VIC.REG4 (R203). -/
def execRdVicReg4 (s : State) : Host.Outcome State Fault Refusal :=
  readDone (vicRead 4 s, s)

/-- RD.VIC.REG5 (R202). -/
def execRdVicReg5 (s : State) : Host.Outcome State Fault Refusal :=
  readDone (vicRead 5 s, s)

/-- RD.VIC.REG6 (R202). -/
def execRdVicReg6 (s : State) : Host.Outcome State Fault Refusal :=
  readDone (vicRead 6 s, s)

/-- RD.VIC.REG7 (R202). -/
def execRdVicReg7 (s : State) : Host.Outcome State Fault Refusal :=
  readDone (vicRead 7 s, s)

/-- RD.VIC.REG8 (R202). -/
def execRdVicReg8 (s : State) : Host.Outcome State Fault Refusal :=
  readDone (vicRead 8 s, s)

/-- RD.VIC.REG9 (R202). -/
def execRdVicReg9 (s : State) : Host.Outcome State Fault Refusal :=
  readDone (vicRead 9 s, s)

/-- RD.VIC.REG10 (R202). -/
def execRdVicReg10 (s : State) : Host.Outcome State Fault Refusal :=
  readDone (vicRead 10 s, s)

/-- RD.VIC.REG11 (R202). -/
def execRdVicReg11 (s : State) : Host.Outcome State Fault Refusal :=
  readDone (vicRead 11 s, s)

/-- RD.VIC.REG12 (R202). -/
def execRdVicReg12 (s : State) : Host.Outcome State Fault Refusal :=
  readDone (vicRead 12 s, s)

/-- RD.VIC.REG13 (R202). -/
def execRdVicReg13 (s : State) : Host.Outcome State Fault Refusal :=
  readDone (vicRead 13 s, s)

/-- RD.VIC.REG14 (R202). -/
def execRdVicReg14 (s : State) : Host.Outcome State Fault Refusal :=
  readDone (vicRead 14 s, s)

/-- RD.VIC.REG15 (R202). -/
def execRdVicReg15 (s : State) : Host.Outcome State Fault Refusal :=
  readDone (vicRead 15 s, s)

end Sys2Proof.Machine
end

