-- ==== Sys2Proof/Machine/VicWrites.lean ====
section
/-! DEFINITION. The WR rows of the video registers (R201, R204-R214). -/

namespace Sys2Proof.Machine

/-- WR.VIC.REG0 (R206). -/
def execWrVicReg0 (v : Byte) (s : State) : Host.Outcome State Fault Refusal :=
  writeDone (vicWrite 0 v s)

/-- WR.VIC.REG1 (R207). -/
def execWrVicReg1 (v : Byte) (s : State) : Host.Outcome State Fault Refusal :=
  writeDone (vicWrite 1 v s)

/-- WR.VIC.REG2 (R208). -/
def execWrVicReg2 (v : Byte) (s : State) : Host.Outcome State Fault Refusal :=
  writeDone (vicWrite 2 v s)

/-- WR.VIC.REG3 (R209). -/
def execWrVicReg3 (v : Byte) (s : State) : Host.Outcome State Fault Refusal :=
  writeDone (vicWrite 3 v s)

/-- WR.VIC.REG4 (R210). -/
def execWrVicReg4 (v : Byte) (s : State) : Host.Outcome State Fault Refusal :=
  writeDone (vicWrite 4 v s)

/-- WR.VIC.REG5 (R211). -/
def execWrVicReg5 (v : Byte) (s : State) : Host.Outcome State Fault Refusal :=
  writeDone (vicWrite 5 v s)

/-- WR.VIC.REG6 (R212). -/
def execWrVicReg6 (v : Byte) (s : State) : Host.Outcome State Fault Refusal :=
  writeDone (vicWrite 6 v s)

/-- WR.VIC.REG7 (R212). -/
def execWrVicReg7 (v : Byte) (s : State) : Host.Outcome State Fault Refusal :=
  writeDone (vicWrite 7 v s)

/-- WR.VIC.REG8 (R212). -/
def execWrVicReg8 (v : Byte) (s : State) : Host.Outcome State Fault Refusal :=
  writeDone (vicWrite 8 v s)

/-- WR.VIC.REG9 (R212). -/
def execWrVicReg9 (v : Byte) (s : State) : Host.Outcome State Fault Refusal :=
  writeDone (vicWrite 9 v s)

/-- WR.VIC.REG10 (R213). -/
def execWrVicReg10 (v : Byte) (s : State) : Host.Outcome State Fault Refusal :=
  writeDone (vicWrite 10 v s)

/-- WR.VIC.REG11 (R213). -/
def execWrVicReg11 (v : Byte) (s : State) : Host.Outcome State Fault Refusal :=
  writeDone (vicWrite 11 v s)

/-- WR.VIC.REG12 (R213). -/
def execWrVicReg12 (v : Byte) (s : State) : Host.Outcome State Fault Refusal :=
  writeDone (vicWrite 12 v s)

/-- WR.VIC.REG13 (R213). -/
def execWrVicReg13 (v : Byte) (s : State) : Host.Outcome State Fault Refusal :=
  writeDone (vicWrite 13 v s)

/-- WR.VIC.REG14 (R214). -/
def execWrVicReg14 (v : Byte) (s : State) : Host.Outcome State Fault Refusal :=
  writeDone (vicWrite 14 v s)

/-- WR.VIC.REG15 (R214). -/
def execWrVicReg15 (v : Byte) (s : State) : Host.Outcome State Fault Refusal :=
  writeDone (vicWrite 15 v s)

end Sys2Proof.Machine
end

