-- ==== Sys2Proof/Machine/VideoReads.lean ====
section
/-! DEFINITION. The VRD rows: each is VideoRead of its ADDR (R91, R122). -/

namespace Sys2Proof.Machine

/-- VRD.RAM_LO (R122, R64). -/
def execVrdRamLo (a : Addr) (s : State) : Host.Outcome State Fault Refusal :=
  videoDone a s

/-- VRD.EXPRAM0 (R122, R64). -/
def execVrdExpram0 (a : Addr) (s : State) : Host.Outcome State Fault Refusal :=
  videoDone a s

/-- VRD.RAM_MID (R122, R64). -/
def execVrdRamMid (a : Addr) (s : State) : Host.Outcome State Fault Refusal :=
  videoDone a s

/-- VRD.CART0 (R122, R64). -/
def execVrdCart0 (a : Addr) (s : State) : Host.Outcome State Fault Refusal :=
  videoDone a s

/-- VRD.EXPRAM1 (R122, R64). -/
def execVrdExpram1 (a : Addr) (s : State) : Host.Outcome State Fault Refusal :=
  videoDone a s

/-- VRD.CART1 (R122, R64). -/
def execVrdCart1 (a : Addr) (s : State) : Host.Outcome State Fault Refusal :=
  videoDone a s

/-- VRD.EXPRAM2 (R122, R64). -/
def execVrdExpram2 (a : Addr) (s : State) : Host.Outcome State Fault Refusal :=
  videoDone a s

/-- VRD.CART2 (R122, R64). -/
def execVrdCart2 (a : Addr) (s : State) : Host.Outcome State Fault Refusal :=
  videoDone a s

/-- VRD.EXPRAM3 (R122, R64). -/
def execVrdExpram3 (a : Addr) (s : State) : Host.Outcome State Fault Refusal :=
  videoDone a s

/-- VRD.ROM_CHAR (R122, R64). -/
def execVrdRomChar (a : Addr) (s : State) : Host.Outcome State Fault Refusal :=
  videoDone a s

/-- VRD.COLRAM (R122, R64). -/
def execVrdColram (a : Addr) (s : State) : Host.Outcome State Fault Refusal :=
  videoDone a s

/-- VRD.CART3 (R122, R64). -/
def execVrdCart3 (a : Addr) (s : State) : Host.Outcome State Fault Refusal :=
  videoDone a s

/-- VRD.EXPRAM4 (R122, R64). -/
def execVrdExpram4 (a : Addr) (s : State) : Host.Outcome State Fault Refusal :=
  videoDone a s

/-- VRD.ROM_BASIC (R122, R64). -/
def execVrdRomBasic (a : Addr) (s : State) : Host.Outcome State Fault Refusal :=
  videoDone a s

/-- VRD.ROM_KERNAL (R122, R64). -/
def execVrdRomKernal (a : Addr) (s : State) : Host.Outcome State Fault Refusal :=
  videoDone a s

/-- VRD.VIC_WINDOW (R122, R64). -/
def execVrdVicWindow (a : Addr) (s : State) : Host.Outcome State Fault Refusal :=
  videoDone a s

/-- VRD.VIA_WINDOWS (R122, R64). -/
def execVrdViaWindows (a : Addr) (s : State) : Host.Outcome State Fault Refusal :=
  videoDone a s

/-- VRD.FLOAT (R122, R64). -/
def execVrdFloat (a : Addr) (s : State) : Host.Outcome State Fault Refusal :=
  videoDone a s

end Sys2Proof.Machine
end

