-- ==== Sys2Proof/Machine/Dispatch.lean ====
section
/-! DEFINITION. One arm per operation: each a direct call of its meaning. -/

namespace Sys2Proof.Machine

def exec (i : Instr) (s : State) : Host.Outcome State Fault Refusal :=
  match i with
  | .rdRamLo a => Sys2Proof.Machine.execRdRamLo a s
  | .rdExpram0 a => Sys2Proof.Machine.execRdExpram0 a s
  | .rdRamMid a => Sys2Proof.Machine.execRdRamMid a s
  | .rdCart0 a => Sys2Proof.Machine.execRdCart0 a s
  | .rdExpram1 a => Sys2Proof.Machine.execRdExpram1 a s
  | .rdCart1 a => Sys2Proof.Machine.execRdCart1 a s
  | .rdExpram2 a => Sys2Proof.Machine.execRdExpram2 a s
  | .rdCart2 a => Sys2Proof.Machine.execRdCart2 a s
  | .rdExpram3 a => Sys2Proof.Machine.execRdExpram3 a s
  | .rdRomChar a => Sys2Proof.Machine.execRdRomChar a s
  | .rdColram a => Sys2Proof.Machine.execRdColram a s
  | .rdCart3 a => Sys2Proof.Machine.execRdCart3 a s
  | .rdExpram4 a => Sys2Proof.Machine.execRdExpram4 a s
  | .rdRomBasic a => Sys2Proof.Machine.execRdRomBasic a s
  | .rdRomKernal a => Sys2Proof.Machine.execRdRomKernal a s
  | .rdVicReg0 => Sys2Proof.Machine.execRdVicReg0 s
  | .rdVicReg1 => Sys2Proof.Machine.execRdVicReg1 s
  | .rdVicReg2 => Sys2Proof.Machine.execRdVicReg2 s
  | .rdVicReg3 => Sys2Proof.Machine.execRdVicReg3 s
  | .rdVicReg4 => Sys2Proof.Machine.execRdVicReg4 s
  | .rdVicReg5 => Sys2Proof.Machine.execRdVicReg5 s
  | .rdVicReg6 => Sys2Proof.Machine.execRdVicReg6 s
  | .rdVicReg7 => Sys2Proof.Machine.execRdVicReg7 s
  | .rdVicReg8 => Sys2Proof.Machine.execRdVicReg8 s
  | .rdVicReg9 => Sys2Proof.Machine.execRdVicReg9 s
  | .rdVicReg10 => Sys2Proof.Machine.execRdVicReg10 s
  | .rdVicReg11 => Sys2Proof.Machine.execRdVicReg11 s
  | .rdVicReg12 => Sys2Proof.Machine.execRdVicReg12 s
  | .rdVicReg13 => Sys2Proof.Machine.execRdVicReg13 s
  | .rdVicReg14 => Sys2Proof.Machine.execRdVicReg14 s
  | .rdVicReg15 => Sys2Proof.Machine.execRdVicReg15 s
  | .rdVia1Orb => Sys2Proof.Machine.execRdVia1Orb s
  | .rdVia1Ora => Sys2Proof.Machine.execRdVia1Ora s
  | .rdVia1Ddrb => Sys2Proof.Machine.execRdVia1Ddrb s
  | .rdVia1Ddra => Sys2Proof.Machine.execRdVia1Ddra s
  | .rdVia1T1cL => Sys2Proof.Machine.execRdVia1T1cL s
  | .rdVia1T1cH => Sys2Proof.Machine.execRdVia1T1cH s
  | .rdVia1T1lL => Sys2Proof.Machine.execRdVia1T1lL s
  | .rdVia1T1lH => Sys2Proof.Machine.execRdVia1T1lH s
  | .rdVia1T2cL => Sys2Proof.Machine.execRdVia1T2cL s
  | .rdVia1T2cH => Sys2Proof.Machine.execRdVia1T2cH s
  | .rdVia1Sr => Sys2Proof.Machine.execRdVia1Sr s
  | .rdVia1Acr => Sys2Proof.Machine.execRdVia1Acr s
  | .rdVia1Pcr => Sys2Proof.Machine.execRdVia1Pcr s
  | .rdVia1Ifr => Sys2Proof.Machine.execRdVia1Ifr s
  | .rdVia1Ier => Sys2Proof.Machine.execRdVia1Ier s
  | .rdVia1OraNh => Sys2Proof.Machine.execRdVia1OraNh s
  | .rdVia2Orb => Sys2Proof.Machine.execRdVia2Orb s
  | .rdVia2Ora => Sys2Proof.Machine.execRdVia2Ora s
  | .rdVia2Ddrb => Sys2Proof.Machine.execRdVia2Ddrb s
  | .rdVia2Ddra => Sys2Proof.Machine.execRdVia2Ddra s
  | .rdVia2T1cL => Sys2Proof.Machine.execRdVia2T1cL s
  | .rdVia2T1cH => Sys2Proof.Machine.execRdVia2T1cH s
  | .rdVia2T1lL => Sys2Proof.Machine.execRdVia2T1lL s
  | .rdVia2T1lH => Sys2Proof.Machine.execRdVia2T1lH s
  | .rdVia2T2cL => Sys2Proof.Machine.execRdVia2T2cL s
  | .rdVia2T2cH => Sys2Proof.Machine.execRdVia2T2cH s
  | .rdVia2Sr => Sys2Proof.Machine.execRdVia2Sr s
  | .rdVia2Acr => Sys2Proof.Machine.execRdVia2Acr s
  | .rdVia2Pcr => Sys2Proof.Machine.execRdVia2Pcr s
  | .rdVia2Ifr => Sys2Proof.Machine.execRdVia2Ifr s
  | .rdVia2Ier => Sys2Proof.Machine.execRdVia2Ier s
  | .rdVia2OraNh => Sys2Proof.Machine.execRdVia2OraNh s
  | .rdFloat a => Sys2Proof.Machine.execRdFloat a s
  | .wrRamLo a v => Sys2Proof.Machine.execWrRamLo a v s
  | .wrExpram0 a v => Sys2Proof.Machine.execWrExpram0 a v s
  | .wrRamMid a v => Sys2Proof.Machine.execWrRamMid a v s
  | .wrCart0 a v => Sys2Proof.Machine.execWrCart0 a v s
  | .wrExpram1 a v => Sys2Proof.Machine.execWrExpram1 a v s
  | .wrCart1 a v => Sys2Proof.Machine.execWrCart1 a v s
  | .wrExpram2 a v => Sys2Proof.Machine.execWrExpram2 a v s
  | .wrCart2 a v => Sys2Proof.Machine.execWrCart2 a v s
  | .wrExpram3 a v => Sys2Proof.Machine.execWrExpram3 a v s
  | .wrRomChar a v => Sys2Proof.Machine.execWrRomChar a v s
  | .wrColram a v => Sys2Proof.Machine.execWrColram a v s
  | .wrCart3 a v => Sys2Proof.Machine.execWrCart3 a v s
  | .wrExpram4 a v => Sys2Proof.Machine.execWrExpram4 a v s
  | .wrRomBasic a v => Sys2Proof.Machine.execWrRomBasic a v s
  | .wrRomKernal a v => Sys2Proof.Machine.execWrRomKernal a v s
  | .wrVicReg0 v => Sys2Proof.Machine.execWrVicReg0 v s
  | .wrVicReg1 v => Sys2Proof.Machine.execWrVicReg1 v s
  | .wrVicReg2 v => Sys2Proof.Machine.execWrVicReg2 v s
  | .wrVicReg3 v => Sys2Proof.Machine.execWrVicReg3 v s
  | .wrVicReg4 v => Sys2Proof.Machine.execWrVicReg4 v s
  | .wrVicReg5 v => Sys2Proof.Machine.execWrVicReg5 v s
  | .wrVicReg6 v => Sys2Proof.Machine.execWrVicReg6 v s
  | .wrVicReg7 v => Sys2Proof.Machine.execWrVicReg7 v s
  | .wrVicReg8 v => Sys2Proof.Machine.execWrVicReg8 v s
  | .wrVicReg9 v => Sys2Proof.Machine.execWrVicReg9 v s
  | .wrVicReg10 v => Sys2Proof.Machine.execWrVicReg10 v s
  | .wrVicReg11 v => Sys2Proof.Machine.execWrVicReg11 v s
  | .wrVicReg12 v => Sys2Proof.Machine.execWrVicReg12 v s
  | .wrVicReg13 v => Sys2Proof.Machine.execWrVicReg13 v s
  | .wrVicReg14 v => Sys2Proof.Machine.execWrVicReg14 v s
  | .wrVicReg15 v => Sys2Proof.Machine.execWrVicReg15 v s
  | .wrVia1Orb v => Sys2Proof.Machine.execWrVia1Orb v s
  | .wrVia1Ora v => Sys2Proof.Machine.execWrVia1Ora v s
  | .wrVia1Ddrb v => Sys2Proof.Machine.execWrVia1Ddrb v s
  | .wrVia1Ddra v => Sys2Proof.Machine.execWrVia1Ddra v s
  | .wrVia1T1cL v => Sys2Proof.Machine.execWrVia1T1cL v s
  | .wrVia1T1cH v => Sys2Proof.Machine.execWrVia1T1cH v s
  | .wrVia1T1lL v => Sys2Proof.Machine.execWrVia1T1lL v s
  | .wrVia1T1lH v => Sys2Proof.Machine.execWrVia1T1lH v s
  | .wrVia1T2cL v => Sys2Proof.Machine.execWrVia1T2cL v s
  | .wrVia1T2cH v => Sys2Proof.Machine.execWrVia1T2cH v s
  | .wrVia1Sr v => Sys2Proof.Machine.execWrVia1Sr v s
  | .wrVia1Acr v => Sys2Proof.Machine.execWrVia1Acr v s
  | .wrVia1Pcr v => Sys2Proof.Machine.execWrVia1Pcr v s
  | .wrVia1Ifr v => Sys2Proof.Machine.execWrVia1Ifr v s
  | .wrVia1Ier v => Sys2Proof.Machine.execWrVia1Ier v s
  | .wrVia1OraNh v => Sys2Proof.Machine.execWrVia1OraNh v s
  | .wrVia2Orb v => Sys2Proof.Machine.execWrVia2Orb v s
  | .wrVia2Ora v => Sys2Proof.Machine.execWrVia2Ora v s
  | .wrVia2Ddrb v => Sys2Proof.Machine.execWrVia2Ddrb v s
  | .wrVia2Ddra v => Sys2Proof.Machine.execWrVia2Ddra v s
  | .wrVia2T1cL v => Sys2Proof.Machine.execWrVia2T1cL v s
  | .wrVia2T1cH v => Sys2Proof.Machine.execWrVia2T1cH v s
  | .wrVia2T1lL v => Sys2Proof.Machine.execWrVia2T1lL v s
  | .wrVia2T1lH v => Sys2Proof.Machine.execWrVia2T1lH v s
  | .wrVia2T2cL v => Sys2Proof.Machine.execWrVia2T2cL v s
  | .wrVia2T2cH v => Sys2Proof.Machine.execWrVia2T2cH v s
  | .wrVia2Sr v => Sys2Proof.Machine.execWrVia2Sr v s
  | .wrVia2Acr v => Sys2Proof.Machine.execWrVia2Acr v s
  | .wrVia2Pcr v => Sys2Proof.Machine.execWrVia2Pcr v s
  | .wrVia2Ifr v => Sys2Proof.Machine.execWrVia2Ifr v s
  | .wrVia2Ier v => Sys2Proof.Machine.execWrVia2Ier v s
  | .wrVia2OraNh v => Sys2Proof.Machine.execWrVia2OraNh v s
  | .wrFloat a v => Sys2Proof.Machine.execWrFloat a v s
  | .vrdRamLo a => Sys2Proof.Machine.execVrdRamLo a s
  | .vrdExpram0 a => Sys2Proof.Machine.execVrdExpram0 a s
  | .vrdRamMid a => Sys2Proof.Machine.execVrdRamMid a s
  | .vrdCart0 a => Sys2Proof.Machine.execVrdCart0 a s
  | .vrdExpram1 a => Sys2Proof.Machine.execVrdExpram1 a s
  | .vrdCart1 a => Sys2Proof.Machine.execVrdCart1 a s
  | .vrdExpram2 a => Sys2Proof.Machine.execVrdExpram2 a s
  | .vrdCart2 a => Sys2Proof.Machine.execVrdCart2 a s
  | .vrdExpram3 a => Sys2Proof.Machine.execVrdExpram3 a s
  | .vrdRomChar a => Sys2Proof.Machine.execVrdRomChar a s
  | .vrdColram a => Sys2Proof.Machine.execVrdColram a s
  | .vrdCart3 a => Sys2Proof.Machine.execVrdCart3 a s
  | .vrdExpram4 a => Sys2Proof.Machine.execVrdExpram4 a s
  | .vrdRomBasic a => Sys2Proof.Machine.execVrdRomBasic a s
  | .vrdRomKernal a => Sys2Proof.Machine.execVrdRomKernal a s
  | .vrdVicWindow a => Sys2Proof.Machine.execVrdVicWindow a s
  | .vrdViaWindows a => Sys2Proof.Machine.execVrdViaWindows a s
  | .vrdFloat a => Sys2Proof.Machine.execVrdFloat a s
  | .tick => Sys2Proof.Machine.execTick s
  | .frame => Sys2Proof.Machine.execFrame s
  | .reset => Sys2Proof.Machine.execReset s
  | .key pressed r c => Sys2Proof.Machine.execKey pressed r c s
  | .joy pressed button => Sys2Proof.Machine.execJoy pressed button s
  | .line via level l => Sys2Proof.Machine.execLine via level l s
  | .ramcfg preset => Sys2Proof.Machine.execRamcfg preset s
  | .cart addr doReset buf => Sys2Proof.Machine.execCart addr doReset buf s
  | .prg run buf => Sys2Proof.Machine.execPrg run buf s
  | .inject buf => Sys2Proof.Machine.execInject buf s
  | .reservedOpc13 rest => Sys2Proof.Machine.execReservedOpc13 rest s
  | .reservedOpc14to15 rest => Sys2Proof.Machine.execReservedOpc14to15 rest s
  | .reservedOpc16to31 rest => Sys2Proof.Machine.execReservedOpc16to31 rest s

end Sys2Proof.Machine
end

