-- ==== Sys2Proof/Machine/Step.lean ====
section
/-! DEFINITION. One step of the block: the oldest presented operation is decoded under the present configuration and
run. How operations reach the block is log 1. -/

namespace Sys2Proof.Machine

/-- One step. With nothing presented the block does nothing (R303, log 1). -/
def step (s : State) : Host.Outcome State Fault Refusal :=
  match s.queue with
  | [] => .next s
  | op :: rest =>
    match decode s.presence op with
    | .ok i => exec i { s with queue := rest }
    | .error e => .refused (.reservedWord e)

/-- The operation of the table's word (32 bits, with an empty buffer) presented as the next one; nothing else
changes. -/
def State.withFetchWord (s : State) (nbits w : Nat) : State :=
  { s with queue := { word := BitVec.ofNat 32 (w % 2 ^ nbits), buf := [] } :: s.queue }

end Sys2Proof.Machine
end

