-- ==== Sys2Proof/Safety.lean ====
section
/-! DEFINITION. The terms the claims use: the invariant of the block, the rows by number, the reserved words of R95,
runs of ticks and of frames, and counts over the event history. -/

namespace Sys2Proof.Machine

/-- The address an operation's word carries. -/
def addrOf (i : Instr) : Addr := fieldAddr (encodeWord i)

/-- The RD row of register `r` of core `k`: `rdVia1Orb` to `rdVia1OraNh`, `rdVia2Orb` to `rdVia2OraNh`. -/
def rdViaRow (k : ViaId) (r : Fin 16) : Instr :=
  match k with
  | .via1 => rdVia1Row r
  | .via2 => rdVia2Row r

/-- The WR row of register `r` of core `k`: `wrVia1Orb` to `wrVia1OraNh`, `wrVia2Orb` to `wrVia2OraNh`. -/
def wrViaRow (k : ViaId) (r : Fin 16) (d : Byte) : Instr :=
  match k with
  | .via1 => wrVia1Row r d
  | .via2 => wrVia2Row r d

/-- The expansion block behind cartridge slot `c` (R126, R131). -/
def blockOfSlot (c : Fin 4) : Fin 5 :=
  match c with
  | 0 => 1
  | 1 => 2
  | 2 => 3
  | 3 => 4

/-- `a` lies in the 8K region of slot `c` (R24). -/
def inRegion (c : Fin 4) (a : Addr) : Prop := cartBase c ≤ a.toNat ∧ a.toNat < cartBase c + 8192

/-- A word R95 reserves: OPC 13 to 31, RSV not 0, a JOY button of 5 to 7, or an operand bit of a non-bus operation
that R91 does not name. -/
def reservedWord (w : OpWord) : Prop :=
  13 ≤ (fieldOpc w).toNat ∨ fieldRsv w ≠ 0 ∨
  (fieldOpc w = 3 ∧ w &&& 0x00FFFFFF ≠ 0) ∨
  (fieldOpc w = 4 ∧ w &&& 0x00FFFFFF ≠ 0) ∨
  (fieldOpc w = 5 ∧ w &&& 0x00FFFFFF ≠ 0) ∨
  (fieldOpc w = 6 ∧ w &&& 0x00FFFEC0 ≠ 0) ∨
  (fieldOpc w = 7 ∧ (w &&& 0x00FFFEF8 ≠ 0 ∨ 5 ≤ (w &&& 7).toNat)) ∨
  (fieldOpc w = 8 ∧ w &&& 0x00FEFEFC ≠ 0) ∨
  (fieldOpc w = 9 ∧ w &&& 0x00FFFFF8 ≠ 0) ∨
  (fieldOpc w = 10 ∧ w &&& 0x000000FE ≠ 0) ∨
  (fieldOpc w = 11 ∧ w &&& 0x00FFFFFE ≠ 0) ∨
  (fieldOpc w = 12 ∧ w &&& 0x00FFFFFF ≠ 0)

/-- `n` ticks of one timer/IO core. -/
def viaTicks : Nat → Via → Via
  | 0, v => v
  | n + 1, v => viaTicks n (viaTick v)

/-- How many decrements bring a 16-bit down-counter to 0: a counter at 0 wraps first (R185). -/
def ticksToZero (c : BitVec 16) : Nat := if c = 0 then 65536 else c.toNat

/-- The samples of VIA1's interrupt line over `n` ticks (R253). -/
def nmiSamples : Nat → State → List Bool
  | 0, _ => []
  | n + 1, s => irqLine (viaTick s.via1) :: nmiSamples n (tick s)

/-- How many samples rise, starting from a previous sample. -/
def rises : Bool → List Bool → Nat
  | _, [] => 0
  | prev, b :: rest => (if b && !prev then 1 else 0) + rises b rest

/-- How often an event stands in the history. -/
def eventCount (e : Event) (s : State) : Nat := s.events.count e

/-- The pixel groups of a line: HPOS takes the multiples of STRIDE below HTOTAL (R39, R215). -/
def groupsPerLine (p : Config.Params) : Nat := (p.htotal + p.stride - 1) / p.stride

/-- The scan position as one number, counting groups from the top left. -/
def scanIndex (p : Config.Params) (v : Vic) : Nat := v.vpos * groupsPerLine p + v.hpos / p.stride

/-- The first `n` answers of CpuStep. -/
def cpuStepsTaken (n : Nat) (c : Cpu) : List CpuStep := (c.steps ++ List.replicate n c.idle).take n

/-- The cycles of a list of CPU steps. -/
def cyclesOf (cs : List CpuStep) : Nat := (cs.map CpuStep.cycles).sum

/-- The external CPU keeps R251's contract: every CpuStep it will answer consumes at least one cycle. -/
def cpuContract (c : Cpu) : Prop := 1 ≤ c.idle.cycles ∧ ∀ x ∈ c.steps, 1 ≤ x.cycles

/-- `n` FRAME operations, with the cycles run in all of them: each frame's acc less the carry it began with
(R250, R256). -/
def framesRun : Nat → State → Option (Nat × State)
  | 0, s => some (0, s)
  | n + 1, s =>
    match runFrame s with
    | none => none
    | some s1 =>
      match s1.result, framesRun n s1 with
      | .cycles acc, some (total, t) => some (acc - s.fcarry + total, t)
      | _, _ => none

/-- A cell of RAM that the configuration gives a store: RAM_LO, RAM_MID, COLRAM or a present EXPRAM block. -/
def storeExists (exp : Vector Bool 5) (n : Nat) : Prop :=
  n ≤ 0x03FF ∨ (0x1000 ≤ n ∧ n ≤ 0x1FFF) ∨ (0x9400 ≤ n ∧ n ≤ 0x97FF) ∨
  ∃ b : Fin 5, expBlockOf n = some b ∧ exp[b] = true

/-- The lengths a cartridge image has (R24). -/
def cartLengthOk (c : Option (List Byte)) : Prop :=
  ∀ image, c = some image → image.length = 0 ∨ image.length = 4096 ∨ image.length = 8192

/-- R28: the index is within the string, and the string holds no zero byte. -/
def injectionOk (j : Option Injection) : Prop :=
  ∀ x, j = some x → x.idx ≤ x.text.length ∧ (0 : Byte) ∉ x.text

/-- What holds of the block in every state it reaches. -/
structure State.Inv (s : State) : Prop where
  /-- The frame has a size (R7, R39). -/
  frameSized : 0 < s.params.htotal ∧ 0 < s.params.vtotal
  /-- HPOS and VPOS stay inside the frame and HPOS is a multiple of STRIDE (R39). -/
  scanInFrame : s.vic.hpos < s.params.htotal ∧ s.vic.vpos < s.params.vtotal ∧ s.vic.hpos % s.params.stride = 0
  /-- The precount delay is 0 to 2 (R31). -/
  precount : s.via1.t1pre ≤ 2 ∧ s.via2.t1pre ≤ 2
  /-- The memory is in its canonical form. -/
  memCanonical : Memory.wf s.params.ramInit s.ram = true
  /-- Every listed cell has a store: an absent block holds nothing (R23). -/
  cellsExist : ∀ c ∈ s.ram, storeExists s.expram c.1
  /-- A cartridge image is 0, 4096 or 8192 bytes long (R24). -/
  cartSizes : ∀ c : Fin 4, cartLengthOk s.cart[c]
  /-- The injection cursor is within its string (R28). -/
  injection : injectionOk s.inj

end Sys2Proof.Machine
end

