-- ==== Sys2Proof/Certificates/Slice0/Obligations.lean ====
section
/-! DEFINITION. The statements for the provers, one `def Obligations.<Name> : Prop` each. -/

open Sys2Proof Sys2Proof.Machine

/-! ### Encoding -/

/-- R93: the row whose condition holds is the one the decoder gives, with every operand. -/
def Obligations.DecodeOfEncodeIsIdentity : Prop :=
  ∀ (p : Presence) (i : Instr), i.wf = true → i.selected p = true → decode p (encode i) = .ok i

/-- The other direction: the decoded operation is well formed and selected, and encodes to the word, with the DATA
byte of RD and VRD, which carries nothing in this model (log 9), cleared. -/
def Obligations.EncodeOfDecodeRestoresTheWord : Prop :=
  ∀ (p : Presence) (op : Op) (i : Instr), decode p op = .ok i →
    i.wf = true ∧ i.selected p = true ∧
    encodeWord i =
      if fieldOpc op.word = 0 ∨ fieldOpc op.word = 2 then op.word &&& 0xFFFFFF00 else op.word

/-- R44, R61, R93: a bus word with RSV 0 selects a row, and no other selected row of the same operation has that
address and data. -/
def Obligations.EveryBusWordSelectsExactlyOneRow : Prop :=
  ∀ (p : Presence) (op : Op), (fieldOpc op.word).toNat ≤ 2 → fieldRsv op.word = 0 →
    ∃ i, decode p op = .ok i ∧ addrOf i = fieldAddr op.word ∧
      ∀ j : Instr, j.wf = true → j.selected p = true → fieldOpc (encodeWord j) = fieldOpc op.word →
        addrOf j = fieldAddr op.word →
        (fieldOpc op.word = 1 → fieldData (encodeWord j) = fieldData op.word) → j = i

/-- A word of every operation of R91, written out from the fields of R90 to R92. -/
def Obligations.TableWordsDecodeToTheirRows : Prop :=
  decode Presence.empty ⟨0x08912EC0, []⟩ = .ok (.wrVia2Ier 0xC0) ∧
  decode Presence.empty ⟨0x00912D00, []⟩ = .ok .rdVia2Ifr ∧
  decode Presence.empty ⟨0x0802890A, []⟩ = .ok (.wrRamLo 0x0289 0x0A) ∧
  decode Presence.empty ⟨0x00900F00, []⟩ = .ok .rdVicReg15 ∧
  decode Presence.empty ⟨0x10900400, []⟩ = .ok (.vrdVicWindow 0x9004) ∧
  decode Presence.empty ⟨0x18000000, []⟩ = .ok .tick ∧
  decode Presence.empty ⟨0x20000000, []⟩ = .ok .frame ∧
  decode Presence.empty ⟨0x28000000, []⟩ = .ok .reset ∧
  decode Presence.empty ⟨0x30000118, []⟩ = .ok (.key true 3 0) ∧
  decode Presence.empty ⟨0x38000101, []⟩ = .ok (.joy true .down) ∧
  decode Presence.empty ⟨0x40000100, []⟩ = .ok (.line .via1 true .ca1) ∧
  decode Presence.empty ⟨0x48000003, []⟩ = .ok (.ramcfg .k16) ∧
  decode Presence.empty ⟨0x50A00000, [7]⟩ = .ok (.cart 0xA000 false [7]) ∧
  decode Presence.empty ⟨0x58000001, [7]⟩ = .ok (.prg true [7]) ∧
  decode Presence.empty ⟨0x60000000, [7]⟩ = .ok (.inject [7])

/-- R95: a presented word is refused as reserved exactly when R95 reserves it. -/
def Obligations.StepRefusesExactlyTheReservedWords : Prop :=
  ∀ (s : State) (op : Op) (rest : List Op), s.queue = op :: rest →
    ((step s = .refused .reservedOpc ∨ ∃ e, step s = .refused (.reservedWord e)) ↔ reservedWord op.word)

/-- R95: the three reserved rows stop, whatever their other bits; the name of the refusal is the model's (log 10). -/
def Obligations.ReservedRowsAreRefused : Prop :=
  ∀ (r13 : BitVec 27) (r14 : BitVec 28) (r16 : BitVec 31) (s : State),
    exec (.reservedOpc13 r13) s = .refused .reservedOpc ∧
    exec (.reservedOpc14to15 r14) s = .refused .reservedOpc ∧
    exec (.reservedOpc16to31 r16) s = .refused .reservedOpc

/-! ### The step -/

/-- A step decodes the oldest presented operation and runs it; the step adds only its removal from the queue. The
queue is the model's choice (log 1). -/
def Obligations.StepRunsTheDecodedOperation : Prop :=
  ∀ (s : State) (op : Op) (rest : List Op) (i : Instr), s.queue = op :: rest →
    decode s.presence op = .ok i → step s = exec i { s with queue := rest }

/-! ### Bus operations -/

/-- R91, R120: every RD row completes, as BusRead of its address; the byte is the result. -/
def Obligations.ReadRowsAreBusReads : Prop :=
  ∀ (i : Instr) (s : State), fieldOpc (encodeWord i) = 0 → i.wf = true →
    exec i s = .next { (busRead (addrOf i) s).2 with result := .byte (busRead (addrOf i) s).1 }

/-- R91, R121: every WR row completes, as BusWrite of its address and data. -/
def Obligations.WriteRowsAreBusWrites : Prop :=
  ∀ (i : Instr) (s : State), fieldOpc (encodeWord i) = 1 → i.wf = true →
    exec i s = .next (busWrite (addrOf i) (fieldData (encodeWord i)) s)

/-- R122, R64: every VRD row completes and changes nothing but the result: the floating bus for a register window,
what BusRead gives elsewhere, where BusRead changes nothing either. -/
def Obligations.VideoReadRowsHaveNoSideEffect : Prop :=
  ∀ (i : Instr) (s : State), fieldOpc (encodeWord i) = 2 → i.wf = true →
    (AddrRange.covers .vicWindow (addrOf i) = true ∨ AddrRange.covers .viaWindows (addrOf i) = true →
      exec i s = .next { s with result := .byte (hiByte (addrOf i)) }) ∧
    (AddrRange.covers .vicWindow (addrOf i) = false → AddrRange.covers .viaWindows (addrOf i) = false →
      exec i s = .next { s with result := .byte (busRead (addrOf i) s).1 } ∧ (busRead (addrOf i) s).2 = s)

/-- R123, R125, R130: the fixed RAMs. A write changes the one byte, and every read of a byte elsewhere gives what it
gave. -/
def Obligations.FixedRamReadsAndWrites : Prop :=
  ∀ (a : Addr) (v : Byte) (s : State), Memory.wf s.params.ramInit s.ram = true →
    (AddrRange.covers .ramLo a = true →
      exec (.rdRamLo a) s = .next { s with result := .byte (s.ramByte a) } ∧
      exec (.wrRamLo a v) s = .next (s.setRamByte a v)) ∧
    (AddrRange.covers .ramMid a = true →
      exec (.rdRamMid a) s = .next { s with result := .byte (s.ramByte a) } ∧
      exec (.wrRamMid a v) s = .next (s.setRamByte a v)) ∧
    (AddrRange.covers .colram a = true →
      exec (.rdColram a) s = .next { s with result := .byte (s.ramByte a) } ∧
      exec (.wrColram a v) s = .next (s.setRamByte a v)) ∧
    (∀ b : Addr, (s.setRamByte a v).ramByte b = if b = a then v else s.ramByte b)

/-- R124: expansion block 0, present and absent. -/
def Obligations.ExpansionBlockZeroReadsAndWrites : Prop :=
  ∀ (a : Addr) (v : Byte) (s : State), AddrRange.covers .expram0 a = true →
    (s.expram[(0 : Fin 5)] = true →
      exec (.rdExpram0 a) s = .next { s with result := .byte (s.ramByte a) } ∧
      exec (.wrExpram0 a v) s = .next (s.setRamByte a v)) ∧
    (s.expram[(0 : Fin 5)] = false →
      exec (.rdFloat a) s = .next { s with result := .byte (hiByte a) } ∧
      exec (.wrFloat a v) s = .next s)

/-- R126, R131: the four expansion regions: the cartridge over the RAM, the RAM, or the floating bus. `readRow` and
`writeRow` are the RD and WR rows of the cartridge slot, `ramReadRow` and `ramWriteRow` those of the block behind it. -/
def Obligations.ExpansionRegionsReadAndWrite : Prop :=
  ∀ (c : Fin 4) (a : Addr) (v : Byte) (s : State), inRegion c a →
    let off := a.toNat - cartBase c
    let readRow : Instr := match c with | 0 => .rdCart0 a | 1 => .rdCart1 a | 2 => .rdCart2 a | 3 => .rdCart3 a
    let writeRow : Instr :=
      match c with | 0 => .wrCart0 a v | 1 => .wrCart1 a v | 2 => .wrCart2 a v | 3 => .wrCart3 a v
    let ramReadRow : Instr :=
      match c with | 0 => .rdExpram1 a | 1 => .rdExpram2 a | 2 => .rdExpram3 a | 3 => .rdExpram4 a
    let ramWriteRow : Instr :=
      match c with | 0 => .wrExpram1 a v | 1 => .wrExpram2 a v | 2 => .wrExpram3 a v | 3 => .wrExpram4 a v
    (∀ image, s.cart[c] = some image →
      (∀ h : off < image.length,
        exec readRow s = .next { s with result := .byte image[off] } ∧ exec writeRow s = .next s) ∧
      (image.length ≤ off →
        exec (.rdFloat a) s = .next { s with result := .byte (hiByte a) } ∧ exec (.wrFloat a v) s = .next s)) ∧
    (s.cart[c] = none → s.expram[blockOfSlot c] = true →
      exec ramReadRow s = .next { s with result := .byte (s.ramByte a) } ∧
      exec ramWriteRow s = .next (s.setRamByte a v)) ∧
    (s.cart[c] = none → s.expram[blockOfSlot c] = false →
      exec (.rdFloat a) s = .next { s with result := .byte (hiByte a) } ∧ exec (.wrFloat a v) s = .next s)

/-- R127, R132: the ROMs read their parameter, and writes are discarded. -/
def Obligations.RomRowsReadAndDiscardWrites : Prop :=
  ∀ (a : Addr) (v : Byte) (s : State),
    (AddrRange.covers .romChar a = true →
      exec (.rdRomChar a) s =
        .next { s with result := .byte (Config.romChar (BitVec.ofNat 12 (a.toNat - 0x8000))) } ∧
      exec (.wrRomChar a v) s = .next s) ∧
    (AddrRange.covers .romBasic a = true →
      exec (.rdRomBasic a) s =
        .next { s with result := .byte (Config.romBasic (BitVec.ofNat 13 (a.toNat - 0xC000))) } ∧
      exec (.wrRomBasic a v) s = .next s) ∧
    (AddrRange.covers .romKernal a = true →
      exec (.rdRomKernal a) s =
        .next { s with result := .byte (Config.romKernal (BitVec.ofNat 13 (a.toNat - 0xE000))) } ∧
      exec (.wrRomKernal a v) s = .next s)

/-- R65, R133: an unclaimed address reads its own high byte, through RD and VRD, and a write to it is discarded. -/
def Obligations.UnclaimedAddressesFloat : Prop :=
  ∀ (a : Addr) (v : Byte) (s : State),
    (Instr.rdFloat a).wf = true → (Instr.rdFloat a).selected s.presence = true →
      exec (.rdFloat a) s = .next { s with result := .byte (BitVec.ofNat 8 (a.toNat / 256)) } ∧
      exec (.vrdFloat a) s = .next { s with result := .byte (BitVec.ofNat 8 (a.toNat / 256)) } ∧
      exec (.wrFloat a v) s = .next s

/-- R66: a write whose target is not writable changes no state. -/
def Obligations.WritesToReadOnlyTargetsChangeNothing : Prop :=
  ∀ (a : Addr) (v : Byte) (s : State) (i : Instr),
    i ∈ [Instr.wrRomChar a v, .wrRomBasic a v, .wrRomKernal a v, .wrCart0 a v, .wrCart1 a v, .wrCart2 a v,
      .wrCart3 a v, .wrFloat a v] →
    i.wf = true → i.selected s.presence = true → exec i s = .next s

/-- Read after write over every RAM target, through both ports, in a canonical memory; no other address reads
differently, through VideoRead, which has no side effect. -/
def Obligations.RamReadsBackWhatWasWritten : Prop :=
  ∀ (a : Addr) (v : Byte) (s : State), Memory.wf s.params.ramInit s.ram = true →
    (s.target a = .ramLo ∨ s.target a = .ramMid ∨ s.target a = .colram ∨ ∃ b, s.target a = .expram b) →
    busRead a (busWrite a v s) = (v, busWrite a v s) ∧
    videoRead a (busWrite a v s) = v ∧
    ∀ b : Addr, b ≠ a → videoRead b (busWrite a v s) = videoRead b s

/-! ### Video registers -/

/-- R200, R202, R203: every video register read completes; registers 3 and 4 give the raster. -/
def Obligations.VideoRegisterReads : Prop :=
  ∀ (r : Fin 16) (s : State), ∃ v : Byte,
    exec (rdVicRow r) s = .next { s with result := .byte v } ∧
    (r ≠ 3 → r ≠ 4 → v = s.vic.reg r) ∧
    (r = 3 → v.toNat = s.vic.vpos % 2 * 128 + (s.vic.reg 3).toNat % 128) ∧
    (r = 4 → v.toNat = s.vic.vpos / 2 % 256)

/-- R201, R204: every video register write completes, storing the value and changing nothing else. -/
def Obligations.VideoRegisterWrites : Prop :=
  ∀ (r : Fin 16) (d : Byte) (s : State), ∃ t : State,
    exec (wrVicRow r d) s = .next t ∧
    (∀ q : Fin 16, t.vic.reg q = if q = r then d else s.vic.reg q) ∧
    t = { s with vic := { s.vic with regs := t.vic.regs } }

/-- R206 to R209, R211, R214: a write stores the byte, and what that makes of the derived geometry. -/
def Obligations.GeometryFollowsRegisterWrites : Prop :=
  ∀ (d : Byte) (s : State),
    (∀ r : Fin 16, (vicWrite r d s).vic.reg r = d) ∧
    leftEdge (vicWrite 0 d s) = d.toNat % 128 * 4 + s.params.hBias ∧
    topEdge (vicWrite 1 d s) = d.toNat * 2 + s.params.vBias ∧
    cols (vicWrite 2 d s) = d.toNat % 128 ∧
    (colorBase (vicWrite 2 d s)).toNat = 0x9400 + d.toNat / 128 * 512 ∧
    (screenVa (vicWrite 2 d s)).toNat = (s.vic.reg 5).toNat / 16 * 1024 + d.toNat / 128 * 512 ∧
    (d.toNat % 128 = 0 → ∀ x y, pixelColor x y (vicWrite 2 d s) = borderColor s) ∧
    rows (vicWrite 3 d s) = d.toNat / 2 % 64 ∧
    charH (vicWrite 3 d s) = (if d.toNat % 2 = 1 then 16 else 8) ∧
    (d.toNat / 2 % 64 = 0 → ∀ x y, pixelColor x y (vicWrite 3 d s) = borderColor s) ∧
    (screenVa (vicWrite 5 d s)).toNat = d.toNat / 16 * 1024 + (s.vic.reg 2).toNat / 128 * 512 ∧
    (charVa (vicWrite 5 d s)).toNat = d.toNat % 16 * 1024 ∧
    (auxColor (vicWrite 14 d s)).toNat = d.toNat / 16 ∧
    (backgroundColor (vicWrite 15 d s)).toNat = d.toNat / 16 ∧
    (borderColor (vicWrite 15 d s)).toNat = d.toNat % 8 ∧
    inverted (vicWrite 15 d s) = decide (d.toNat / 8 % 2 = 0)

/-! ### Timer/IO register reads -/

/-- R154, R156 to R158, R160 to R165: the reads without a side effect, on both cores. -/
def Obligations.PlainViaReads : Prop :=
  ∀ (k : ViaId) (s : State),
    exec (rdViaRow k 2) s = .next { s with result := .byte (s.via k).ddrb } ∧
    exec (rdViaRow k 3) s = .next { s with result := .byte (s.via k).ddra } ∧
    exec (rdViaRow k 5) s = .next { s with result := .byte (BitVec.ofNat 8 ((s.via k).t1c.toNat / 256)) } ∧
    exec (rdViaRow k 6) s = .next { s with result := .byte (BitVec.ofNat 8 (s.via k).t1l.toNat) } ∧
    exec (rdViaRow k 7) s = .next { s with result := .byte (BitVec.ofNat 8 ((s.via k).t1l.toNat / 256)) } ∧
    exec (rdViaRow k 9) s = .next { s with result := .byte (BitVec.ofNat 8 ((s.via k).t2c.toNat / 256)) } ∧
    exec (rdViaRow k 10) s = .next { s with result := .byte (s.via k).sr } ∧
    exec (rdViaRow k 11) s = .next { s with result := .byte (s.via k).acr } ∧
    exec (rdViaRow k 12) s = .next { s with result := .byte (s.via k).pcr }

/-- R164, R165: the interrupt registers as read: the summary bit is live, IER bit 7 reads 1, and a read changes
nothing. -/
def Obligations.InterruptRegisterReads : Prop :=
  ∀ (k : ViaId) (s : State),
    let summary : Byte := if (s.via k).ifr &&& (s.via k).ier ≠ 0 then 0x80 else 0x00
    exec (rdViaRow k 13) s = .next { s with result := .byte ((s.via k).ifr.setWidth 8 ||| summary) } ∧
    exec (rdViaRow k 14) s = .next { s with result := .byte (0x80 ||| (s.via k).ier.setWidth 8) }

/-- R155, R159: reading a low counter byte clears that timer's flag. -/
def Obligations.CounterLowReadsClearTheirFlag : Prop :=
  ∀ (k : ViaId) (s : State),
    exec (rdViaRow k 4) s =
      .next { s.setVia k { s.via k with ifr := (s.via k).ifr &&& ~~~0x40 } with
        result := .byte (BitVec.ofNat 8 (s.via k).t1c.toNat) } ∧
    exec (rdViaRow k 8) s =
      .next { s.setVia k { s.via k with ifr := (s.via k).ifr &&& ~~~0x20 } with
        result := .byte (BitVec.ofNat 8 (s.via k).t2c.toNat) }

/-- R152, R153, R166, R182: a port read clears its pair of flags (not through the alias), merges the live value into
the input bits and returns the merged register; that the question is recorded as an event is the model's reading
(log 7). The live value is what the parameter KBD_WIRING gives the port, bit by bit, for every wiring of the model's
form (log 18). -/
def Obligations.PortReadsMergeLiveInput : Prop :=
  ∀ (k : ViaId) (s : State),
    (∀ (p : Port) (i : Fin 8), (portLive s k p).getLsbD i = s.liveLevel (portBits s.params.wiring k p)[i]) ∧
    let v := s.via k
    let liveA := portLive s k .a
    let liveB := portLive s k .b
    let newA := (v.ora &&& v.ddra) ||| (liveA &&& ~~~v.ddra)
    let newB := (v.orb &&& v.ddrb) ||| (liveB &&& ~~~v.ddrb)
    exec (rdViaRow k 0) s =
      .next { (s.setVia k { v with orb := newB, ifr := v.ifr &&& ~~~0x18 }).emit (.portIn k .b liveB) with
        result := .byte newB } ∧
    exec (rdViaRow k 1) s =
      .next { (s.setVia k { v with ora := newA, ifr := v.ifr &&& ~~~0x03 }).emit (.portIn k .a liveA) with
        result := .byte newA } ∧
    exec (rdViaRow k 15) s =
      .next { (s.setVia k { v with ora := newA }).emit (.portIn k .a liveA) with result := .byte newA }

/-- R260 to R262, with the wiring table of R259: the live value of each port, bit by bit. -/
def Obligations.PortLiveValuesFollowTheWiring : Prop :=
  ∀ (s : State) (i : Fin 8), s.params.wiring = Config.defaultWiring →
    (portLive s .via1 .a).getLsbD i =
      !((decide (i = 2) && s.joyUp) || (decide (i = 3) && s.joyDown) || (decide (i = 4) && s.joyLeft) ||
        (decide (i = 5) && s.joyFire)) ∧
    (portLive s .via1 .b).getLsbD i = true ∧
    ((portLive s .via2 .a).getLsbD i = false ↔
      ∃ c : Fin 8, s.via2.ddrb.getLsbD c = true ∧ s.via2.orb.getLsbD c = false ∧ (s.kbd[i])[c] = true) ∧
    (portLive s .via2 .b).getLsbD i = !(decide (i = 7) && s.joyRight)

/-! ### Timer/IO register writes -/

/-- R169, R170, R172, R174, R176, R177: the writes that only store, on both cores. -/
def Obligations.PlainViaWrites : Prop :=
  ∀ (k : ViaId) (d : Byte) (s : State),
    exec (wrViaRow k 2 d) s = .next (s.setVia k { s.via k with ddrb := d }) ∧
    exec (wrViaRow k 3 d) s = .next (s.setVia k { s.via k with ddra := d }) ∧
    exec (wrViaRow k 4 d) s = .next (s.setVia k { s.via k with t1l := (s.via k).t1l.extractLsb' 8 8 ++ d }) ∧
    exec (wrViaRow k 6 d) s = .next (s.setVia k { s.via k with t1l := (s.via k).t1l.extractLsb' 8 8 ++ d }) ∧
    exec (wrViaRow k 8 d) s = .next (s.setVia k { s.via k with t2l := d }) ∧
    exec (wrViaRow k 10 d) s = .next (s.setVia k { s.via k with sr := d }) ∧
    exec (wrViaRow k 11 d) s = .next (s.setVia k { s.via k with acr := d })

/-- R171, R173, R175: the high-byte writes of the timers; the precount delay is unchanged, and a latch write leaves
the trigger. -/
def Obligations.TimerHighWrites : Prop :=
  ∀ (k : ViaId) (d : Byte) (s : State),
    let v := s.via k
    let latch : BitVec 16 := d ++ v.t1l.extractLsb' 0 8
    exec (wrViaRow k 5 d) s =
      .next (s.setVia k { v with t1l := latch, t1c := latch, ifr := v.ifr &&& ~~~0x40, t1trig := false }) ∧
    exec (wrViaRow k 7 d) s = .next (s.setVia k { v with t1l := latch, ifr := v.ifr &&& ~~~0x40 }) ∧
    exec (wrViaRow k 9 d) s =
      .next (s.setVia k { v with t2c := d ++ v.t2l, ifr := v.ifr &&& ~~~0x20, t2trig := false })

/-- R179, R180: writes of the interrupt registers, bit by bit; no IFR write sets a flag. -/
def Obligations.InterruptRegisterWrites : Prop :=
  ∀ (k : ViaId) (d : Byte) (s : State), ∃ (f e : BitVec 7),
    exec (wrViaRow k 13 d) s = .next (s.setVia k { s.via k with ifr := f }) ∧
    (∀ i, i < 7 → f.getLsbD i = ((s.via k).ifr.getLsbD i && !d.getLsbD i)) ∧
    exec (wrViaRow k 14 d) s = .next (s.setVia k { s.via k with ier := e }) ∧
    (∀ i, i < 7 → e.getLsbD i =
      if d.getLsbD 7 then ((s.via k).ier.getLsbD i || d.getLsbD i)
      else ((s.via k).ier.getLsbD i && !d.getLsbD i))

/-- R167, R168, R181: an output-data write touches the output bits, clears its pair of flags (not through the alias)
and tells the port sink. -/
def Obligations.PortWrites : Prop :=
  ∀ (k : ViaId) (d : Byte) (s : State),
    let v := s.via k
    let newA := (v.ora &&& ~~~v.ddra) ||| (d &&& v.ddra)
    let newB := (v.orb &&& ~~~v.ddrb) ||| (d &&& v.ddrb)
    exec (wrViaRow k 0 d) s =
      .next ((s.setVia k { v with orb := newB, ifr := v.ifr &&& ~~~0x18 }).emit (.portOut k .b newB v.ddrb)) ∧
    exec (wrViaRow k 1 d) s =
      .next ((s.setVia k { v with ora := newA, ifr := v.ifr &&& ~~~0x03 }).emit (.portOut k .a newA v.ddra)) ∧
    exec (wrViaRow k 15 d) s =
      .next ((s.setVia k { v with ora := newA }).emit (.portOut k .a newA v.ddra))

/-- R178: a PCR write stores the byte and drives CA2, then CB2, to a requested manual level. -/
def Obligations.PcrWritesDriveManualOutputs : Prop :=
  ∀ (k : ViaId) (d : Byte) (s : State),
    let m2 := d.toNat / 2 % 8
    let mb := d.toNat / 32
    let ca2 := if m2 = 6 then false else if m2 = 7 then true else (s.via k).ca2
    let cb2 := if mb = 6 then false else if mb = 7 then true else (s.via k).cb2
    let evA : List Event := if 6 ≤ m2 then [.lineOut k .ca2 ca2] else []
    let evB : List Event := if 6 ≤ mb then [.lineOut k .cb2 cb2] else []
    exec (wrViaRow k 12 d) s =
      .next { s.setVia k { s.via k with pcr := d, ca2 := ca2, cb2 := cb2 } with
        events := evB ++ evA ++ s.events }

/-! ### Timers, edges and interrupts -/

/-- R185: timer 1 in one-shot mode, after the rest of a reload delay, sets its flag at the tick that brings the counter
to 0, not before; once triggered, in either mode, it counts on and never sets its flag again. -/
def Obligations.OneShotTimerFiresOnce : Prop :=
  ∀ (v : Via) (n : Nat),
    (v.acr.getLsbD 6 = false → v.t1trig = false →
      (n < v.t1pre + ticksToZero v.t1c →
        (viaTicks n v).ifr.getLsbD 6 = v.ifr.getLsbD 6 ∧ (viaTicks n v).t1trig = false) ∧
      (v.t1pre + ticksToZero v.t1c ≤ n → (viaTicks n v).ifr.getLsbD 6 = true ∧ (viaTicks n v).t1trig = true)) ∧
    (v.t1trig = true → (viaTicks n v).ifr.getLsbD 6 = v.ifr.getLsbD 6 ∧ (viaTicks n v).t1trig = true) ∧
    (v.acr.getLsbD 6 = false ∨ v.t1trig = true →
      (viaTicks n v).t1c = v.t1c - BitVec.ofNat 16 (n - v.t1pre) ∧ (viaTicks n v).t1pre = v.t1pre - n)

/-- R185, R326: a free-running timer 1 sets its flag at the tick that brings the counter to 0; that tick reloads the
latch and arms the 2-tick delay, so that the flag, if cleared, sets again after N + 2 ticks and not before. -/
def Obligations.FreeRunTimerIsPeriodic : Prop :=
  ∀ (v : Via) (n : Nat), v.acr.getLsbD 6 = true → v.t1trig = false →
    (n < v.t1pre + ticksToZero v.t1c →
      (viaTicks n v).ifr.getLsbD 6 = v.ifr.getLsbD 6 ∧ (viaTicks n v).t1trig = false) ∧
    (n = v.t1pre + ticksToZero v.t1c →
      (viaTicks n v).ifr.getLsbD 6 = true ∧ (viaTicks n v).t1c = v.t1l ∧ (viaTicks n v).t1pre = 2 ∧
      (viaTicks n v).t1trig = false ∧ (viaTicks n v).t1l = v.t1l ∧ (viaTicks n v).acr = v.acr)

/-- R186: timer 2 sets its flag once, at the tick that brings it to 0, and in pulse-counting mode is held. -/
def Obligations.TimerTwoFiresOnce : Prop :=
  ∀ (v : Via) (n : Nat),
    (v.acr.getLsbD 5 = true → (viaTicks n v).t2c = v.t2c ∧ (viaTicks n v).t2trig = v.t2trig ∧
      (viaTicks n v).ifr.getLsbD 5 = v.ifr.getLsbD 5) ∧
    (v.acr.getLsbD 5 = false →
      (viaTicks n v).t2c = v.t2c - BitVec.ofNat 16 n ∧
      (viaTicks n v).t2trig = (v.t2trig || decide (ticksToZero v.t2c ≤ n)) ∧
      (viaTicks n v).ifr.getLsbD 5 = (v.ifr.getLsbD 5 || (!v.t2trig && decide (ticksToZero v.t2c ≤ n))))

/-- R187: the edge detector of one tick: the flag of CA1 and the sampled levels. -/
def Obligations.EdgeDetectorSetsOnlyTheSelectedEdge : Prop :=
  ∀ v : Via,
    (viaTick v).ifr.getLsbD 1 =
      (v.ifr.getLsbD 1 ||
        (decide (v.ca1 ≠ v.ca1Prev) && ((v.pcr.getLsbD 0 && v.ca1) || (!v.pcr.getLsbD 0 && !v.ca1)))) ∧
    (viaTick v).ca1Prev = v.ca1 ∧ (viaTick v).ca2Prev = v.ca2 ∧ (viaTick v).cb1Prev = v.cb1 ∧
    (viaTick v).cb2Prev = v.cb2 ∧
    (viaTick v).ca1 = v.ca1 ∧ (viaTick v).ca2 = v.ca2 ∧ (viaTick v).cb1 = v.cb1 ∧ (viaTick v).cb2 = v.cb2

/-- R215 to R217, R252 to R254, R295: TICK completes: VIA1, its sample and NMI, VIA2, its line and IRQ, then VIC, whose
scan advances by one group and whose group of pixels, in ascending order, is emitted inside the active window; nothing
else changes but the CPU's spent answer, which is the model's choice (log 14). -/
def Obligations.TickFansOutInOrder : Prop :=
  ∀ s : State,
    let p := s.params
    let v1 := viaTick s.via1
    let v2 := viaTick s.via2
    let lineDone := p.htotal ≤ s.vic.hpos + p.stride
    let x := if lineDone then 0 else s.vic.hpos + p.stride
    let y := if lineDone then (if p.vtotal ≤ s.vic.vpos + 1 then 0 else s.vic.vpos + 1) else s.vic.vpos
    let vic : Vic := { s.vic with hpos := x, vpos := y }
    let nmi : List Event := if irqLine v1 && !s.nmiPrev then [.cpuNmi] else []
    let irq : List Event := if irqLine v2 && (askIrqEnabled s).1 then [.cpuIrq] else []
    let pixels : List Event :=
      if p.activeX0 ≤ x ∧ x < p.activeX1 ∧ p.activeY0 ≤ y ∧ y < p.activeY1 then
        (List.range p.stride).map fun i => .pixel (x + i) y (pixelColor (x + i) y { s with vic := vic })
      else []
    exec .tick s =
      .next { s with
        via1 := v1
        nmiPrev := irqLine v1
        via2 := v2
        vic := vic
        cpu := (askIrqEnabled s).2.cpu
        events := (nmi ++ irq ++ pixels).reverse ++ s.events }

/-- R253: over any number of ticks, CpuNmi is emitted exactly once per rise of the sampled line, and NMI_PREV holds the
last sample. -/
def Obligations.NmiOncePerTransition : Prop :=
  ∀ (n : Nat) (s : State),
    eventCount .cpuNmi (ticks n s) = eventCount .cpuNmi s + rises s.nmiPrev (nmiSamples n s) ∧
    (ticks n s).nmiPrev = (nmiSamples n s).getLast?.getD s.nmiPrev

/-- R254: CpuIrq is level-sensitive: while VIA2's line stays up and the CPU's answer is yes, every tick emits one, and
while the answer is no, none. That the CPU's answers are a script with an idle answer is the model's choice (log 2, log
14). -/
def Obligations.IrqOnEveryTickWhileAsserted : Prop :=
  ∀ (n : Nat) (s : State), s.cpu.irqAnswers = [] →
    (s.cpu.irqIdle = true → (∀ m, m < n → irqLine (viaTick (ticks m s).via2) = true) →
      eventCount .cpuIrq (ticks n s) = eventCount .cpuIrq s + n) ∧
    (s.cpu.irqIdle = false → eventCount .cpuIrq (ticks n s) = eventCount .cpuIrq s)

/-! ### The raster -/

/-- R39, R215: in a frame of any size the scan visits its groups one a tick, line by line, and returns to where it was
after a frame's ticks; R332: the default frame has 71 groups a line and FRAME_BUDGET groups. -/
def Obligations.RasterAdvancesOneGroupPerTick : Prop :=
  (∀ (n : Nat) (s : State), 0 < s.params.stride → s.vic.hpos < s.params.htotal → s.vic.vpos < s.params.vtotal →
    s.vic.hpos % s.params.stride = 0 →
    scanIndex s.params (ticks n s).vic =
      (scanIndex s.params s.vic + n) % (groupsPerLine s.params * s.params.vtotal) ∧
    (ticks n s).vic.hpos < s.params.htotal ∧ (ticks n s).vic.vpos < s.params.vtotal ∧
    (ticks n s).vic.hpos % s.params.stride = 0 ∧ (ticks n s).vic.regs = s.vic.regs) ∧
  groupsPerLine Config.defaults = 71 ∧ 71 * Config.defaults.vtotal = Config.defaults.frameBudget

/-- R217, R219: a pixel outside the character area has the border colour, whatever memory holds. -/
def Obligations.BorderOutsideTheCharacterArea : Prop :=
  ∀ (px y : Nat) (s : State),
    ¬(leftEdge s ≤ px ∧ px < leftEdge s + areaW s ∧ topEdge s ≤ y ∧ y < topEdge s + areaH s) →
    (pixelColor px y s).toNat = (s.vic.reg 15).toNat % 8

/-- R218, R220, R221: a pixel inside the area, from the three fetches through VideoRead. -/
def Obligations.CharacterPixels : Prop :=
  ∀ (px y : Nat) (s : State),
    leftEdge s ≤ px → px < leftEdge s + areaW s → topEdge s ≤ y → y < topEdge s + areaH s →
    let cx := px - leftEdge s
    let cy := y - topEdge s
    let idx := cy / charH s * cols s + cx / 8
    let code := videoRead (BitVec.ofNat 16 ((screenBase s).toNat + idx)) s
    let cnib := (videoRead (BitVec.ofNat 16 ((colorBase s).toNat + idx)) s).toNat % 16
    let caddr := va2cpu (BitVec.ofNat 14 ((charVa s).toNat + code.toNat * charH s + cy % charH s))
    let bits := videoRead caddr s
    let b := cx % 8
    let fg := BitVec.ofNat 4 (cnib % 8)
    (cnib < 8 → pixelColor px y s =
      if bits.getLsbD (7 - b) = inverted s then backgroundColor s else fg) ∧
    (8 ≤ cnib → pixelColor px y s =
      match bits.getLsbD (7 - 2 * (b / 2)), bits.getLsbD (6 - 2 * (b / 2)) with
      | false, false => backgroundColor s
      | false, true => borderColor s
      | true, false => fg
      | true, true => auxColor s)

/-- R223: the character address in CPU addresses, with its two folds. -/
def Obligations.GlyphAddressFolds : Prop :=
  ∀ (code : Byte) (gr : Nat) (s : State), gr < charH s →
    let a := (charBase s).toNat + code.toNat * charH s + gr
    (0x8000 ≤ (charBase s).toNat ∧ 0xA000 ≤ a → (glyphAddr code gr s).toNat = a - 0xA000 ∧ a ≤ 0xABFF) ∧
    ((charBase s).toNat < 0x2000 ∧ 0x2000 ≤ a → (glyphAddr code gr s).toNat = a - 0x2000 + 0x8000 ∧ a ≤ 0x2BFF) ∧
    (¬(0x8000 ≤ (charBase s).toNat ∧ 0xA000 ≤ a) → ¬((charBase s).toNat < 0x2000 ∧ 0x2000 ≤ a) →
      (glyphAddr code gr s).toNat = a)

/-- R224: with LEFT and HPOS multiples of 4 a group of 4 pixels is wholly inside or wholly outside the area, and lies
within one half of one cell. -/
def Obligations.GroupsNeverStraddleACell : Prop :=
  ∀ (x y i : Nat) (s : State), s.params.hBias % 4 = 0 → x % 4 = 0 → i < 4 →
    inArea (x + i) y s = inArea x y s ∧
    (leftEdge s ≤ x → (x + i - leftEdge s) / 4 = (x - leftEdge s) / 4)

/-! ### Frames -/

/-- R250, R251: FRAME completes while the CPU keeps its contract: it runs the fewest CPU steps that bring acc to the
budget, each with its accesses before its ticks, then services the injection; acc is the result, and the overrun is
the carry. The CPU as a script of steps is the model's choice (log 2). -/
def Obligations.FrameRunsToItsBudget : Prop :=
  ∀ s : State, cpuContract s.cpu →
    ∃ n : Nat,
      let run := cpuStepsTaken n s.cpu
      let acc := s.fcarry + cyclesOf run
      s.params.frameBudget ≤ acc ∧
      (∀ m, m < n → s.fcarry + cyclesOf (cpuStepsTaken m s.cpu) < s.params.frameBudget) ∧
      exec .frame s =
        .next { serviceInjection
          { run.foldl (fun t c => ticks c.cycles (cpuAccesses c.accesses t)) s with
            cpu := { (run.foldl (fun t c => ticks c.cycles (cpuAccesses c.accesses t)) s).cpu with
              steps := s.cpu.steps.drop n }
            fcarry := acc - s.params.frameBudget } with
          result := .cycles acc }

/-- R251: a CpuStep of 0 cycles, reached before the budget is met, refuses the frame, and nothing else does.
That the whole frame is refused, with no partial state, is the model's choice (log 16). -/
def Obligations.FrameRefusesAZeroCycleStep : Prop :=
  ∀ s : State,
    (exec .frame s = .refused .cpuStepZero ↔
      ∃ n : Nat, s.fcarry + cyclesOf (cpuStepsTaken n s.cpu) < s.params.frameBudget ∧
        (∀ x ∈ cpuStepsTaken n s.cpu, 1 ≤ x.cycles) ∧
        ((cpuStepsTaken (n + 1) s.cpu).getLast?.map CpuStep.cycles) = some 0)

/-- R256: no drift: the cycles of n frames from carry 0 are n budgets and the carry; and the carry stays below the
longest CPU step. The CPU as a script of steps is the model's choice (log 2). -/
def Obligations.FrameCarryDoesNotDrift : Prop :=
  ∀ (n total cmax : Nat) (s t : State), framesRun n s = some (total, t) →
    (s.fcarry = 0 → total = n * s.params.frameBudget + t.fcarry) ∧
    (s.fcarry < cmax → s.cpu.idle.cycles ≤ cmax → (∀ x ∈ s.cpu.steps, x.cycles ≤ cmax) → t.fcarry < cmax)

/-! ### Injection -/

/-- R258: INJECT takes the buffer up to its first zero byte, replacing a pending string, and touches nothing else. -/
def Obligations.InjectTakesTheTextBeforeTheFirstZero : Prop :=
  ∀ (buf : List Byte) (s : State), ∃ text rest : List Byte,
    exec (.inject buf) s = .next { s with inj := some { text := text, idx := 0 } } ∧
    buf = text ++ rest ∧ (0 : Byte) ∉ text ∧ (rest = [] ∨ rest.head? = some 0)

/-- R257, with the default guest addresses, which lie in fixed RAM: as many characters as fit are appended to the
guest's buffer, the length counter follows, no other byte changes, and INJ keeps what is left. -/
def Obligations.InjectionFillsTheGuestBuffer : Prop :=
  ∀ (s : State) (j : Injection), s.params = Config.defaults → Memory.wf s.params.ramInit s.ram = true →
    s.inj = some j → j.idx ≤ j.text.length →
    let n := (s.ramByte 0x00C6).toNat
    let m := (s.ramByte 0x0289).toNat
    let k := min (j.text.length - j.idx) (m - n)
    let t := serviceInjection s
    t = { s with ram := t.ram, inj := t.inj } ∧
    t.inj = (if j.idx + k = j.text.length then none else some { j with idx := j.idx + k }) ∧
    (t.ramByte 0x00C6).toNat = n + k ∧
    (∀ i, i < k → some (t.ramByte (BitVec.ofNat 16 (0x0277 + n + i))) = j.text[j.idx + i]?) ∧
    (∀ a : Addr, a ≠ 0x00C6 → (a.toNat < 0x0277 + n ∨ 0x0277 + n + k ≤ a.toNat) → t.ramByte a = s.ramByte a)

/-! ### Host operations -/

/-- R264: KEY sets one matrix cell. -/
def Obligations.KeySetsOneMatrixCell : Prop :=
  ∀ (pressed : Bool) (r c : Fin 8) (s : State), ∃ t : State,
    exec (.key pressed r c) s = .next t ∧ t = { s with kbd := t.kbd } ∧
    ∀ r' c' : Fin 8, (t.kbd[r'])[c'] = if r' = r ∧ c' = c then pressed else (s.kbd[r'])[c']

/-- R265, R266: JOY sets one switch and LINE one control line of one core. -/
def Obligations.JoyAndLineSetOneLevel : Prop :=
  ∀ (b : Bool) (k : ViaId) (s : State),
    exec (.joy b .up) s = .next { s with joyUp := b } ∧
    exec (.joy b .down) s = .next { s with joyDown := b } ∧
    exec (.joy b .left) s = .next { s with joyLeft := b } ∧
    exec (.joy b .right) s = .next { s with joyRight := b } ∧
    exec (.joy b .fire) s = .next { s with joyFire := b } ∧
    exec (.line k b .ca1) s = .next (s.setVia k { s.via k with ca1 := b }) ∧
    exec (.line k b .ca2) s = .next (s.setVia k { s.via k with ca2 := b }) ∧
    exec (.line k b .cb1) s = .next (s.setVia k { s.via k with cb1 := b }) ∧
    exec (.line k b .cb2) s = .next (s.setVia k { s.via k with cb2 := b })

/-- R267, R268: RAMCFG sets the presence by the ladder, keeps the contents of blocks that stay and of fixed RAM, and
every other block's bytes are RAM_INIT. -/
def Obligations.RamConfigurationFollowsTheLadder : Prop :=
  ∀ (r : RamPreset) (s : State), ∃ t : State,
    exec (.ramcfg r) s = .next t ∧ t = { s with expram := t.expram, ram := t.ram } ∧
    t.expram.toList =
      (match r with
      | .unexp => [false, false, false, false, false]
      | .k3 => [true, false, false, false, false]
      | .k8 => [false, true, false, false, false]
      | .k16 => [false, true, true, false, false]
      | .k24 => [false, true, true, true, false]
      | .k27 => [true, true, true, true, false]
      | .k32 => [false, true, true, true, true]
      | .k35 => [true, true, true, true, true]) ∧
    ∀ a : Addr,
      (expBlockOf a.toNat = none → t.ramByte a = s.ramByte a) ∧
      ∀ b : Fin 5, expBlockOf a.toNat = some b →
        t.ramByte a = if s.expram[b] = true ∧ t.expram[b] = true then s.ramByte a else s.params.ramInit

/-- R271: the trim leaves the last 8192 or 4096 bytes, or nothing. -/
def Obligations.CartridgeTrimKeepsTheTail : Prop :=
  ∀ buf : List Byte,
    trimCart buf =
      buf.drop (buf.length - if 8192 ≤ buf.length then 8192 else if 4096 ≤ buf.length then 4096 else 0)

/-- R269, R270, R272: CART completes in every case: the slot by load address, the image, the reset, and no effect
otherwise. That a reset follows only an install that was made is the model's reading (log 12). -/
def Obligations.CartInstallsInTheAddressedSlot : Prop :=
  ∀ (a : Addr) (rst : Bool) (buf : List Byte) (s : State),
    let install (l : Addr) (data : List Byte) : State :=
      match cartSlot l with
      | some c => if rst then doReset { s with cart := s.cart.set c (some data) }
        else { s with cart := s.cart.set c (some data) }
      | none => s
    (a ≠ 0 → exec (.cart a rst buf) s = .next (install a (trimCart buf))) ∧
    (a = 0 → (buf.length = 4098 ∨ buf.length = 8194) → ∀ lo hi : Byte, buf[0]? = some lo → buf[1]? = some hi →
      exec (.cart a rst buf) s = .next (install (BitVec.ofNat 16 (hi.toNat * 256 + lo.toNat)) (buf.drop 2))) ∧
    (a = 0 → buf.length ≠ 4098 → buf.length ≠ 8194 → exec (.cart a rst buf) s = .next s) ∧
    (∀ (l : Addr) (c : Fin 4), cartSlot l = some c ↔ l.toNat = cartBase c)

/-- R273, R274: PRG completes: too short a buffer does nothing; otherwise the data goes up from the load address
through BusWrite, then the guest pointers are patched with the end address, low byte first, and a run starts the
injection of RUN and a carriage return. -/
def Obligations.ProgramLoaderWritesDataAndPointers : Prop :=
  ∀ (run : Bool) (buf : List Byte) (s : State),
    (buf.length < 2 → exec (.prg run buf) s = .next s) ∧
    ∀ (lo hi : Byte) (data : List Byte), buf = lo :: hi :: data →
      let l := hi.toNat * 256 + lo.toNat
      let e : BitVec 16 := BitVec.ofNat 16 (l + data.length)
      let loaded := data.zipIdx.foldl (fun t x => busWrite (BitVec.ofNat 16 (l + x.2)) x.1 t) s
      let patched := s.params.prgPtrs.foldl
        (fun t p => busWrite (p + 1) (e.extractLsb' 8 8) (busWrite p (e.extractLsb' 0 8) t)) loaded
      exec (.prg run buf) s =
        .next (if run then { patched with inj := some { text := [0x52, 0x55, 0x4E, 0x0D], idx := 0 } }
          else patched)

/-- R320, R321: RESET completes: every owned component at the value R26, R27, R29 to R31 and R39 list, RAM, expansion,
cartridges and injection kept, and CpuReset last, here a CPU that makes no bus access in it; the count of CpuReset calls
is the model's (log 15). R323: power-on is a state that RESET leaves as it is but for that count, with every byte of RAM
at RAM_INIT, every EXPRAM and CART absent and INJ none. -/
def Obligations.ResetRestoresThePowerOnValues : Prop :=
  (∀ s : State, s.cpu.resetAccesses = [] → ∃ t : State,
    exec .reset s = .next t ∧
    (∀ k : ViaId,
      (t.via k).ora = 0 ∧ (t.via k).orb = 0 ∧ (t.via k).ddra = 0 ∧ (t.via k).ddrb = 0 ∧
      (t.via k).t1c = 0 ∧ (t.via k).t1l = 0 ∧ (t.via k).t1pre = 0 ∧ (t.via k).t1trig = false ∧
      (t.via k).t2c = 0 ∧ (t.via k).t2l = 0 ∧ (t.via k).t2trig = false ∧
      (t.via k).sr = 0 ∧ (t.via k).acr = 0 ∧ (t.via k).pcr = 0 ∧ (t.via k).ifr = 0 ∧ (t.via k).ier = 0 ∧
      (t.via k).ca1 = false ∧ (t.via k).ca1Prev = false ∧ (t.via k).ca2 = false ∧ (t.via k).ca2Prev = false ∧
      (t.via k).cb1 = false ∧ (t.via k).cb1Prev = false ∧ (t.via k).cb2 = false ∧ (t.via k).cb2Prev = false) ∧
    (∀ r : Fin 16, t.vic.reg r = 0) ∧ t.vic.hpos = 0 ∧ t.vic.vpos = 0 ∧
    t.nmiPrev = false ∧ t.fcarry = 0 ∧ (∀ r c : Fin 8, (t.kbd[r])[c] = false) ∧
    t = { s with
      via1 := t.via1, via2 := t.via2, vic := t.vic, nmiPrev := t.nmiPrev, fcarry := t.fcarry, kbd := t.kbd
      joyUp := false, joyDown := false, joyLeft := false, joyRight := false, joyFire := false
      cpu := { s.cpu with resetCount := s.cpu.resetCount + 1 } }) ∧
  (∃ n : Nat, exec .reset State.reset =
    .next { State.reset with cpu := { State.reset.cpu with resetCount := n } }) ∧
  (∀ a : Addr, State.reset.ramByte a = State.reset.params.ramInit) ∧
  (∀ b : Fin 5, State.reset.expram[b] = false) ∧ (∀ c : Fin 4, State.reset.cart[c] = none) ∧ State.reset.inj = none

/-- R322: CpuReset comes last: whatever the CPU's own reset logic accesses on the bus, it sees the reset block.
The list of those accesses is the model's (log 15). -/
def Obligations.CpuResetSeesTheResetBlock : Prop :=
  ∀ (s : State) (xs : List BusAccess) (rest : List (List BusAccess)), s.cpu.resetAccesses = xs :: rest →
    ∃ t : State, exec .reset { s with cpu := { s.cpu with resetAccesses := [] } } = .next t ∧
      exec .reset s = .next (cpuAccesses xs { t with cpu := { t.cpu with resetAccesses := rest } })

/-! ### Whole-machine rules -/

/-- The invariant of the block: every step keeps it. -/
def Obligations.InvariantIsKeptByEveryStep : Prop :=
  ∀ s t : State, s.Inv → step s = .next t → t.Inv

/-- The invariant holds at power-on (the parameters at their defaults: log 3, log 5). -/
def Obligations.InvariantHoldsAtReset : Prop := State.reset.Inv

/-- R292: no step sets CB1, CB2, SR or CA2 in either core's IFR. -/
def Obligations.UnmodelledFlagsAreNeverSet : Prop :=
  ∀ (s t : State) (k : ViaId), step s = .next t →
    (t.via k).ifr &&& 0x1D &&& ~~~(s.via k).ifr = 0

/-- R7, R23, R24: no step changes a parameter; only RAMCFG changes which expansion blocks are present, and only CART
the cartridges. -/
def Obligations.ConfigurationChangesOnlyByItsOperations : Prop :=
  ∀ (i : Instr) (s t : State), exec i s = .next t →
    t.params = s.params ∧
    ((∀ r, i ≠ .ramcfg r) → t.expram = s.expram) ∧
    ((∀ a rst buf, i ≠ .cart a rst buf) → t.cart = s.cart)

/-- R255: interrupt lines are sampled only in a tick: no operation but TICK and FRAME emits CpuNmi or CpuIrq or moves
the NMI sample, but for the reset of NMI_PREV by RESET and CART. -/
def Obligations.InterruptsAreDeliveredOnlyByTicks : Prop :=
  ∀ (i : Instr) (s t : State), exec i s = .next t → i ≠ .tick → i ≠ .frame →
    eventCount .cpuNmi t = eventCount .cpuNmi s ∧ eventCount .cpuIrq t = eventCount .cpuIrq s ∧
    (t.nmiPrev = s.nmiPrev ∨ t.nmiPrev = false)
end

