-- ==== Sys2Proof/Laws/Encoding.lean ====
section
/-! SUPPORT. The fields of a built operation word, the operand codes, and the rows by number. -/

namespace Sys2Proof

@[simp] theorem fieldOpc_mkWord (o : BitVec 5) (a : Addr) (d : Byte) : fieldOpc (mkWord o a d) = o := by
  apply BitVec.eq_of_getLsbD_eq
  intro i hi
  simp only [fieldOpc, mkWord, BitVec.getLsbD_append, BitVec.getLsbD_extractLsb', hi, show ¬27 + i < 8 by omega,
    show ¬27 + i - 8 < 16 by omega, show ¬27 + i - 8 - 16 < 3 by omega, show 27 + i - 8 - 16 - 3 = i by omega,
    decide_true, Bool.true_and, if_false]

@[simp] theorem fieldRsv_mkWord (o : BitVec 5) (a : Addr) (d : Byte) : fieldRsv (mkWord o a d) = 0 := by
  apply BitVec.eq_of_getLsbD_eq
  intro i hi
  simp only [fieldRsv, mkWord, BitVec.getLsbD_append, BitVec.getLsbD_extractLsb', show ¬24 + i < 8 by omega,
    show ¬24 + i - 8 < 16 by omega, show 24 + i - 8 - 16 < 3 by omega, if_false, if_true, BitVec.getLsbD_zero,
    Bool.and_false]
  exact (BitVec.getLsbD_zero ..).symm

@[simp] theorem fieldAddr_mkWord (o : BitVec 5) (a : Addr) (d : Byte) : fieldAddr (mkWord o a d) = a := by
  apply BitVec.eq_of_getLsbD_eq
  intro i hi
  simp only [fieldAddr, mkWord, BitVec.getLsbD_append, BitVec.getLsbD_extractLsb', hi, show ¬8 + i < 8 by omega,
    show 8 + i - 8 = i by omega, decide_true, Bool.true_and, if_false, if_true]

@[simp] theorem fieldData_mkWord (o : BitVec 5) (a : Addr) (d : Byte) : fieldData (mkWord o a d) = d := by
  apply BitVec.eq_of_getLsbD_eq
  intro i hi
  simp only [fieldData, mkWord, BitVec.getLsbD_append, BitVec.getLsbD_extractLsb', hi, Nat.zero_add, decide_true,
    Bool.true_and, if_true]

/-- A word with RSV 0 is built of its fields. -/
theorem mkWord_fields (w : OpWord) (h : fieldRsv w = 0) :
    mkWord (fieldOpc w) (fieldAddr w) (fieldData w) = w := by
  apply BitVec.eq_of_getLsbD_eq
  intro i hi
  simp only [mkWord, fieldOpc, fieldAddr, fieldData, BitVec.getLsbD_append, BitVec.getLsbD_extractLsb']
  split
  · simp [*]
  · split
    · simp [*, show 8 + (i - 8) = i by omega]
    · split
      · have h3 := congrArg (fun x : BitVec 3 => x.getLsbD (i - 24)) h
        simp only [fieldRsv, BitVec.getLsbD_extractLsb'] at h3
        simp only [show i - 24 < 3 by omega, decide_true, Bool.true_and,
          show 24 + (i - 24) = i by omega] at h3 ⊢
        simpa using h3.symm
      · simp [show i - 8 - 16 - 3 < 5 by omega, show 27 + (i - 8 - 16 - 3) = i by omega]

/-- The operation selectors of the reserved rows (R95). -/
theorem fieldOpc_reserved13 (rest : BitVec 27) : fieldOpc (13#5 ++ rest : BitVec 32) = 13 := by
  apply BitVec.eq_of_getLsbD_eq
  intro i hi
  simp only [fieldOpc, BitVec.getLsbD_append, BitVec.getLsbD_extractLsb', hi, show ¬27 + i < 27 by omega,
    show 27 + i - 27 = i by omega, decide_true, Bool.true_and, if_false]
  rfl

theorem fieldOpc_reserved14to15 (rest : BitVec 28) :
    fieldOpc (7#4 ++ rest : BitVec 32) = 7#4 ++ rest.extractLsb' 27 1 := by
  apply BitVec.eq_of_getLsbD_eq
  intro i hi
  simp only [fieldOpc, BitVec.getLsbD_append, BitVec.getLsbD_extractLsb', hi, decide_true, Bool.true_and]
  by_cases h : i < 1
  · simp [h, show 27 + i < 28 by omega]
  · simp [h, show ¬27 + i < 28 by omega, show 27 + i - 28 = i - 1 by omega]

theorem fieldOpc_reserved16to31 (rest : BitVec 31) :
    fieldOpc (1#1 ++ rest : BitVec 32) = 1#1 ++ rest.extractLsb' 27 4 := by
  apply BitVec.eq_of_getLsbD_eq
  intro i hi
  simp only [fieldOpc, BitVec.getLsbD_append, BitVec.getLsbD_extractLsb', hi, decide_true, Bool.true_and]
  by_cases h : i < 4
  · simp [h, show 27 + i < 31 by omega]
  · simp [h, show ¬27 + i < 31 by omega, show 27 + i - 31 = i - 4 by omega]

/-- Their selectors as numbers. -/
theorem fieldOpc_reserved14to15_toNat (rest : BitVec 28) :
    14 ≤ (fieldOpc (7#4 ++ rest : BitVec 32)).toNat ∧ (fieldOpc (7#4 ++ rest : BitVec 32)).toNat < 16 := by
  rw [fieldOpc_reserved14to15]
  generalize rest.extractLsb' 27 1 = x
  revert x
  decide

theorem fieldOpc_reserved16to31_toNat (rest : BitVec 31) : 16 ≤ (fieldOpc (1#1 ++ rest : BitVec 32)).toNat := by
  rw [fieldOpc_reserved16to31]
  generalize rest.extractLsb' 27 4 = x
  revert x
  decide

@[simp] theorem buttonOf_code (b : Button) : buttonOf b.code = some b := by cases b <;> rfl

@[simp] theorem controlLineOf_code (l : ControlLine) : controlLineOf l.code = l := by cases l <;> rfl

@[simp] theorem ramPresetOf_code (r : RamPreset) : ramPresetOf r.code = r := by cases r <;> rfl

/-- The buttons JOY's field can name (R92, R95). -/
theorem buttonOf_eq_some (n : BitVec 3) (b : Button) : buttonOf n = some b ↔ n = b.code := by
  revert n b
  have : ∀ n : BitVec 3, ∀ b ∈ [Button.up, .down, .left, .right, .fire], buttonOf n = some b ↔ n = b.code := by decide
  intro n b
  exact this n b (by cases b <;> decide)

/-- JOY's field names no button exactly from 5 on. -/
theorem buttonOf_eq_none : ∀ n : BitVec 3, buttonOf n = none ↔ 5 ≤ n.toNat := by decide

theorem ramPresetOf_eq (n : BitVec 3) : (ramPresetOf n).code = n := by
  revert n
  decide

theorem controlLineOf_eq (n : BitVec 2) : (controlLineOf n).code = n := by
  revert n
  decide

@[simp] theorem inRange_iff (lo hi : Nat) (a : Addr) : inRange lo hi a = true ↔ lo ≤ a.toNat ∧ a.toNat ≤ hi := by
  simp [inRange]

@[simp] theorem inRange_eq_false (lo hi : Nat) (a : Addr) :
    inRange lo hi a = false ↔ ¬(lo ≤ a.toNat ∧ a.toNat ≤ hi) := by
  simp [inRange]

/-- The rows of the decode table, each with its range and its condition (R61, R62, R126). Slot `s` stands before
expansion block `s + 1`. -/
inductive AddrCase (p : Presence) (a : Addr) : Target → Prop where
  | ramLo (h : a.toNat ≤ 0x03FF) : AddrCase p a .ramLo
  | expram0 (h1 : 0x0400 ≤ a.toNat) (h2 : a.toNat ≤ 0x0FFF) (hp : p.exp[(0 : Fin 5)] = true) :
      AddrCase p a (.expram 0)
  | noExpram0 (h1 : 0x0400 ≤ a.toNat) (h2 : a.toNat ≤ 0x0FFF) (hp : p.exp[(0 : Fin 5)] = false) :
      AddrCase p a .float
  | ramMid (h1 : 0x1000 ≤ a.toNat) (h2 : a.toNat ≤ 0x1FFF) : AddrCase p a .ramMid
  | cart (s : Fin 4) (len : Nat) (h1 : cartBase s ≤ a.toNat) (h2 : a.toNat < cartBase s + 8192)
      (hc : p.cart[s] = some len) (hl : a.toNat - cartBase s < len) : AddrCase p a (.cart s)
  | pastCart (s : Fin 4) (len : Nat) (h1 : cartBase s ≤ a.toNat) (h2 : a.toNat < cartBase s + 8192)
      (hc : p.cart[s] = some len) (hl : len ≤ a.toNat - cartBase s) : AddrCase p a .float
  | expram (s : Fin 4) (h1 : cartBase s ≤ a.toNat) (h2 : a.toNat < cartBase s + 8192)
      (hc : p.cart[s] = none) (hp : p.exp[s.succ] = true) : AddrCase p a (.expram s.succ)
  | noExpram (s : Fin 4) (h1 : cartBase s ≤ a.toNat) (h2 : a.toNat < cartBase s + 8192)
      (hc : p.cart[s] = none) (hp : p.exp[s.succ] = false) : AddrCase p a .float
  | romChar (h1 : 0x8000 ≤ a.toNat) (h2 : a.toNat ≤ 0x8FFF) : AddrCase p a .romChar
  | vic (h1 : 0x9000 ≤ a.toNat) (h2 : a.toNat ≤ 0x900F) : AddrCase p a (.vic (registerIndex a))
  | hole (h : inHole a = true) : AddrCase p a .float
  | via1 (h1 : 0x9110 ≤ a.toNat) (h2 : a.toNat ≤ 0x911F) : AddrCase p a (.via .via1 (registerIndex a))
  | via2 (h1 : 0x9120 ≤ a.toNat) (h2 : a.toNat ≤ 0x912F) : AddrCase p a (.via .via2 (registerIndex a))
  | colram (h1 : 0x9400 ≤ a.toNat) (h2 : a.toNat ≤ 0x97FF) : AddrCase p a .colram
  | romBasic (h1 : 0xC000 ≤ a.toNat) (h2 : a.toNat ≤ 0xDFFF) : AddrCase p a .romBasic
  | romKernal (h1 : 0xE000 ≤ a.toNat) : AddrCase p a .romKernal

/-- One expansion region. -/
theorem regionTarget_case (p : Presence) (a : Addr) (s : Fin 4) (h1 : cartBase s ≤ a.toNat)
    (h2 : a.toNat < cartBase s + 8192) : AddrCase p a (regionTarget p s s.succ (a.toNat - cartBase s)) := by
  unfold regionTarget
  split
  · rename_i len hc
    split
    · exact .cart s len h1 h2 hc ‹_›
    · exact .pastCart s len h1 h2 hc (by omega)
  · rename_i hc
    split
    · exact .expram s h1 h2 hc ‹_›
    · exact .noExpram s h1 h2 hc (Bool.eq_false_iff.mpr ‹_›)

/-- The address decoder, said once: some row of the table holds. -/
theorem decodeAddr_case (p : Presence) (a : Addr) : AddrCase p a (decodeAddr p a) := by
  have ha : a.toNat < 65536 := a.isLt
  unfold decodeAddr
  dsimp only
  by_cases h1 : a.toNat ≤ 0x03FF
  · rw [if_pos h1]
    exact .ramLo h1
  rw [if_neg h1]
  by_cases h2 : a.toNat ≤ 0x0FFF
  · rw [if_pos h2]
    split
    · exact .expram0 (by omega) h2 ‹_›
    · exact .noExpram0 (by omega) h2 (Bool.eq_false_iff.mpr ‹_›)
  rw [if_neg h2]
  by_cases h3 : a.toNat ≤ 0x1FFF
  · rw [if_pos h3]
    exact .ramMid (by omega) h3
  rw [if_neg h3]
  by_cases h4 : a.toNat ≤ 0x3FFF
  · rw [if_pos h4]
    exact regionTarget_case p a 0 (show 0x2000 ≤ a.toNat by omega) (show a.toNat < 0x2000 + 8192 by omega)
  rw [if_neg h4]
  by_cases h5 : a.toNat ≤ 0x5FFF
  · rw [if_pos h5]
    exact regionTarget_case p a 1 (show 0x4000 ≤ a.toNat by omega) (show a.toNat < 0x4000 + 8192 by omega)
  rw [if_neg h5]
  by_cases h6 : a.toNat ≤ 0x7FFF
  · rw [if_pos h6]
    exact regionTarget_case p a 2 (show 0x6000 ≤ a.toNat by omega) (show a.toNat < 0x6000 + 8192 by omega)
  rw [if_neg h6]
  by_cases h7 : a.toNat ≤ 0x8FFF
  · rw [if_pos h7]
    exact .romChar (by omega) h7
  rw [if_neg h7]
  by_cases h8 : a.toNat ≤ 0x900F
  · rw [if_pos h8]
    exact .vic (by omega) h8
  rw [if_neg h8]
  by_cases h9 : a.toNat ≤ 0x910F
  · rw [if_pos h9]
    exact .hole (by simp only [inHole, Bool.or_eq_true, inRange_iff]; omega)
  rw [if_neg h9]
  by_cases h10 : a.toNat ≤ 0x911F
  · rw [if_pos h10]
    exact .via1 (by omega) h10
  rw [if_neg h10]
  by_cases h11 : a.toNat ≤ 0x912F
  · rw [if_pos h11]
    exact .via2 (by omega) h11
  rw [if_neg h11]
  by_cases h12 : a.toNat ≤ 0x93FF
  · rw [if_pos h12]
    exact .hole (by simp only [inHole, Bool.or_eq_true, inRange_iff]; omega)
  rw [if_neg h12]
  by_cases h13 : a.toNat ≤ 0x97FF
  · rw [if_pos h13]
    exact .colram (by omega) h13
  rw [if_neg h13]
  by_cases h14 : a.toNat ≤ 0x9FFF
  · rw [if_pos h14]
    exact .hole (by simp only [inHole, Bool.or_eq_true, inRange_iff]; omega)
  rw [if_neg h14]
  by_cases h15 : a.toNat ≤ 0xBFFF
  · rw [if_pos h15]
    exact regionTarget_case p a 3 (show 0xA000 ≤ a.toNat by omega) (show a.toNat < 0xA000 + 8192 by omega)
  rw [if_neg h15]
  by_cases h16 : a.toNat ≤ 0xDFFF
  · rw [if_pos h16]
    exact .romBasic (by omega) h16
  rw [if_neg h16]
  exact .romKernal (by omega)

/-- The base of a slot, for arithmetic. -/
theorem cartBase_cases (s : Fin 4) :
    (s = 0 ∧ cartBase s = 0x2000) ∨ (s = 1 ∧ cartBase s = 0x4000) ∨ (s = 2 ∧ cartBase s = 0x6000) ∨
      (s = 3 ∧ cartBase s = 0xA000) := by
  revert s
  decide

/-- The decoder in an expansion region. -/
theorem decodeAddr_region (p : Presence) (a : Addr) (s : Fin 4) (h1 : cartBase s ≤ a.toNat)
    (h2 : a.toNat < cartBase s + 8192) : decodeAddr p a = regionTarget p s s.succ (a.toNat - cartBase s) := by
  unfold decodeAddr
  dsimp only
  rcases cartBase_cases s with ⟨rfl, hb⟩ | ⟨rfl, hb⟩ | ⟨rfl, hb⟩ | ⟨rfl, hb⟩ <;> rw [hb] at h1 h2 ⊢ <;>
    (repeat rw [if_neg (by omega)]) <;> rw [if_pos (by omega)] <;> rfl

/-- The rows do not overlap: a target that a row gives is the decoder's. -/
theorem decodeAddr_eq {p : Presence} {a : Addr} {t : Target} (h : AddrCase p a t) : decodeAddr p a = t := by
  have ha : a.toNat < 65536 := a.isLt
  cases h
  case cart s len h1 h2 hc hl => simp only [decodeAddr_region p a s h1 h2, regionTarget, hc, hl, if_true]
  case pastCart s len h1 h2 hc hl =>
    simp only [decodeAddr_region p a s h1 h2, regionTarget, hc, Nat.not_lt.mpr hl, if_false]
  case expram s h1 h2 hc hp => simp only [decodeAddr_region p a s h1 h2, regionTarget, hc, hp, if_true]
  case noExpram s h1 h2 hc hp =>
    simp only [decodeAddr_region p a s h1 h2, regionTarget, hc, hp, Bool.false_eq_true, if_false]
  case hole h =>
    simp only [inHole, Bool.or_eq_true, inRange_iff] at h
    unfold decodeAddr
    dsimp only
    rcases h with (h | h) | h <;> (repeat rw [if_neg (by omega)]) <;> rw [if_pos (by omega)]
  all_goals
    unfold decodeAddr
    dsimp only
    (repeat rw [if_neg (by omega)])
    try rw [if_pos (by omega)]
  · rw [if_pos ‹_›]
  · rw [if_neg (by rw [‹p.exp[(0 : Fin 5)] = false›]; decide)]

/-- The address decoder on the register windows (R61, R62). -/
theorem decodeAddr_viaAddr (p : Presence) (k : ViaId) (r : Fin 16) : decodeAddr p (viaAddr k r) = .via k r := by
  cases k <;> fin_cases r <;> rfl

theorem decodeAddr_vicAddr (p : Presence) (r : Fin 16) : decodeAddr p (vicAddr r) = .vic r := by
  fin_cases r <;> rfl

end Sys2Proof
end

