-- ==== Sys2Proof/Laws/State.lean ====
section
/-! SUPPORT. One lemma per field per named update of State, true by rfl, so that no later proof unfolds an update. -/

namespace Sys2Proof.Machine

@[simp] theorem State.emit_params (s : State) (e : Event) : (s.emit e).params = s.params := rfl
@[simp] theorem State.emit_ram (s : State) (e : Event) : (s.emit e).ram = s.ram := rfl
@[simp] theorem State.emit_expram (s : State) (e : Event) : (s.emit e).expram = s.expram := rfl
@[simp] theorem State.emit_cart (s : State) (e : Event) : (s.emit e).cart = s.cart := rfl
@[simp] theorem State.emit_kbd (s : State) (e : Event) : (s.emit e).kbd = s.kbd := rfl
@[simp] theorem State.emit_joyUp (s : State) (e : Event) : (s.emit e).joyUp = s.joyUp := rfl
@[simp] theorem State.emit_joyDown (s : State) (e : Event) : (s.emit e).joyDown = s.joyDown := rfl
@[simp] theorem State.emit_joyLeft (s : State) (e : Event) : (s.emit e).joyLeft = s.joyLeft := rfl
@[simp] theorem State.emit_joyRight (s : State) (e : Event) : (s.emit e).joyRight = s.joyRight := rfl
@[simp] theorem State.emit_joyFire (s : State) (e : Event) : (s.emit e).joyFire = s.joyFire := rfl
@[simp] theorem State.emit_inj (s : State) (e : Event) : (s.emit e).inj = s.inj := rfl
@[simp] theorem State.emit_fcarry (s : State) (e : Event) : (s.emit e).fcarry = s.fcarry := rfl
@[simp] theorem State.emit_nmiPrev (s : State) (e : Event) : (s.emit e).nmiPrev = s.nmiPrev := rfl
@[simp] theorem State.emit_via1 (s : State) (e : Event) : (s.emit e).via1 = s.via1 := rfl
@[simp] theorem State.emit_via2 (s : State) (e : Event) : (s.emit e).via2 = s.via2 := rfl
@[simp] theorem State.emit_vic (s : State) (e : Event) : (s.emit e).vic = s.vic := rfl
@[simp] theorem State.emit_cpu (s : State) (e : Event) : (s.emit e).cpu = s.cpu := rfl
@[simp] theorem State.emit_queue (s : State) (e : Event) : (s.emit e).queue = s.queue := rfl
@[simp] theorem State.emit_result (s : State) (e : Event) : (s.emit e).result = s.result := rfl
@[simp] theorem State.emit_events (s : State) (e : Event) : (s.emit e).events = e :: s.events := rfl
@[simp] theorem State.emit_via (s : State) (e : Event) (k : ViaId) : (s.emit e).via k = s.via k := rfl
@[simp] theorem State.emit_presence (s : State) (e : Event) : (s.emit e).presence = s.presence := rfl

@[simp] theorem State.setVia_params (s : State) (k : ViaId) (v : Via) : (s.setVia k v).params = s.params := by cases k <;> rfl
@[simp] theorem State.setVia_ram (s : State) (k : ViaId) (v : Via) : (s.setVia k v).ram = s.ram := by cases k <;> rfl
@[simp] theorem State.setVia_expram (s : State) (k : ViaId) (v : Via) : (s.setVia k v).expram = s.expram := by cases k <;> rfl
@[simp] theorem State.setVia_cart (s : State) (k : ViaId) (v : Via) : (s.setVia k v).cart = s.cart := by cases k <;> rfl
@[simp] theorem State.setVia_kbd (s : State) (k : ViaId) (v : Via) : (s.setVia k v).kbd = s.kbd := by cases k <;> rfl
@[simp] theorem State.setVia_joyUp (s : State) (k : ViaId) (v : Via) : (s.setVia k v).joyUp = s.joyUp := by cases k <;> rfl
@[simp] theorem State.setVia_joyDown (s : State) (k : ViaId) (v : Via) : (s.setVia k v).joyDown = s.joyDown := by cases k <;> rfl
@[simp] theorem State.setVia_joyLeft (s : State) (k : ViaId) (v : Via) : (s.setVia k v).joyLeft = s.joyLeft := by cases k <;> rfl
@[simp] theorem State.setVia_joyRight (s : State) (k : ViaId) (v : Via) : (s.setVia k v).joyRight = s.joyRight := by cases k <;> rfl
@[simp] theorem State.setVia_joyFire (s : State) (k : ViaId) (v : Via) : (s.setVia k v).joyFire = s.joyFire := by cases k <;> rfl
@[simp] theorem State.setVia_inj (s : State) (k : ViaId) (v : Via) : (s.setVia k v).inj = s.inj := by cases k <;> rfl
@[simp] theorem State.setVia_fcarry (s : State) (k : ViaId) (v : Via) : (s.setVia k v).fcarry = s.fcarry := by cases k <;> rfl
@[simp] theorem State.setVia_nmiPrev (s : State) (k : ViaId) (v : Via) : (s.setVia k v).nmiPrev = s.nmiPrev := by cases k <;> rfl
@[simp] theorem State.setVia_vic (s : State) (k : ViaId) (v : Via) : (s.setVia k v).vic = s.vic := by cases k <;> rfl
@[simp] theorem State.setVia_cpu (s : State) (k : ViaId) (v : Via) : (s.setVia k v).cpu = s.cpu := by cases k <;> rfl
@[simp] theorem State.setVia_queue (s : State) (k : ViaId) (v : Via) : (s.setVia k v).queue = s.queue := by cases k <;> rfl
@[simp] theorem State.setVia_events (s : State) (k : ViaId) (v : Via) : (s.setVia k v).events = s.events := by cases k <;> rfl
@[simp] theorem State.setVia_result (s : State) (k : ViaId) (v : Via) : (s.setVia k v).result = s.result := by cases k <;> rfl
@[simp] theorem State.setVia_via_same (s : State) (k : ViaId) (v : Via) : (s.setVia k v).via k = v := by cases k <;> rfl
theorem State.setVia_via (s : State) (k q : ViaId) (v : Via) :
    (s.setVia k v).via q = if q = k then v else s.via q := by cases k <;> cases q <;> rfl
@[simp] theorem State.setVia_presence (s : State) (k : ViaId) (v : Via) : (s.setVia k v).presence = s.presence := by cases k <;> rfl
@[simp] theorem State.setVia_setVia (s : State) (k : ViaId) (v w : Via) : (s.setVia k v).setVia k w = s.setVia k w := by cases k <;> rfl
@[simp] theorem State.setVia_self (s : State) (k : ViaId) : s.setVia k (s.via k) = s := by cases k <;> rfl
/-- The update written with both cores named, the shape the frame lemmas use. -/
theorem State.setVia_eq (s : State) (k : ViaId) (v : Via) :
    s.setVia k v = { s with via1 := (s.setVia k v).via1, via2 := (s.setVia k v).via2 } := by cases k <;> rfl

@[simp] theorem State.setRamByte_params (s : State) (a : Addr) (v : Byte) : (s.setRamByte a v).params = s.params := rfl
@[simp] theorem State.setRamByte_expram (s : State) (a : Addr) (v : Byte) : (s.setRamByte a v).expram = s.expram := rfl
@[simp] theorem State.setRamByte_cart (s : State) (a : Addr) (v : Byte) : (s.setRamByte a v).cart = s.cart := rfl
@[simp] theorem State.setRamByte_kbd (s : State) (a : Addr) (v : Byte) : (s.setRamByte a v).kbd = s.kbd := rfl
@[simp] theorem State.setRamByte_joyUp (s : State) (a : Addr) (v : Byte) : (s.setRamByte a v).joyUp = s.joyUp := rfl
@[simp] theorem State.setRamByte_joyDown (s : State) (a : Addr) (v : Byte) : (s.setRamByte a v).joyDown = s.joyDown := rfl
@[simp] theorem State.setRamByte_joyLeft (s : State) (a : Addr) (v : Byte) : (s.setRamByte a v).joyLeft = s.joyLeft := rfl
@[simp] theorem State.setRamByte_joyRight (s : State) (a : Addr) (v : Byte) : (s.setRamByte a v).joyRight = s.joyRight := rfl
@[simp] theorem State.setRamByte_joyFire (s : State) (a : Addr) (v : Byte) : (s.setRamByte a v).joyFire = s.joyFire := rfl
@[simp] theorem State.setRamByte_inj (s : State) (a : Addr) (v : Byte) : (s.setRamByte a v).inj = s.inj := rfl
@[simp] theorem State.setRamByte_fcarry (s : State) (a : Addr) (v : Byte) : (s.setRamByte a v).fcarry = s.fcarry := rfl
@[simp] theorem State.setRamByte_nmiPrev (s : State) (a : Addr) (v : Byte) : (s.setRamByte a v).nmiPrev = s.nmiPrev := rfl
@[simp] theorem State.setRamByte_via1 (s : State) (a : Addr) (v : Byte) : (s.setRamByte a v).via1 = s.via1 := rfl
@[simp] theorem State.setRamByte_via2 (s : State) (a : Addr) (v : Byte) : (s.setRamByte a v).via2 = s.via2 := rfl
@[simp] theorem State.setRamByte_vic (s : State) (a : Addr) (v : Byte) : (s.setRamByte a v).vic = s.vic := rfl
@[simp] theorem State.setRamByte_cpu (s : State) (a : Addr) (v : Byte) : (s.setRamByte a v).cpu = s.cpu := rfl
@[simp] theorem State.setRamByte_queue (s : State) (a : Addr) (v : Byte) : (s.setRamByte a v).queue = s.queue := rfl
@[simp] theorem State.setRamByte_events (s : State) (a : Addr) (v : Byte) : (s.setRamByte a v).events = s.events := rfl
@[simp] theorem State.setRamByte_result (s : State) (a : Addr) (v : Byte) : (s.setRamByte a v).result = s.result := rfl
@[simp] theorem State.setRamByte_ram (s : State) (a : Addr) (v : Byte) :
    (s.setRamByte a v).ram = memWrite s.params.ramInit s.ram a.toNat v := rfl
@[simp] theorem State.setRamByte_presence (s : State) (a : Addr) (v : Byte) : (s.setRamByte a v).presence = s.presence := rfl

@[simp] theorem State.vicWrite_params (r : Fin 16) (d : Byte) (s : State) : (vicWrite r d s).params = s.params := rfl
@[simp] theorem State.vicWrite_ram (r : Fin 16) (d : Byte) (s : State) : (vicWrite r d s).ram = s.ram := rfl
@[simp] theorem State.vicWrite_expram (r : Fin 16) (d : Byte) (s : State) : (vicWrite r d s).expram = s.expram := rfl
@[simp] theorem State.vicWrite_cart (r : Fin 16) (d : Byte) (s : State) : (vicWrite r d s).cart = s.cart := rfl
@[simp] theorem State.vicWrite_kbd (r : Fin 16) (d : Byte) (s : State) : (vicWrite r d s).kbd = s.kbd := rfl
@[simp] theorem State.vicWrite_joyUp (r : Fin 16) (d : Byte) (s : State) : (vicWrite r d s).joyUp = s.joyUp := rfl
@[simp] theorem State.vicWrite_joyDown (r : Fin 16) (d : Byte) (s : State) : (vicWrite r d s).joyDown = s.joyDown := rfl
@[simp] theorem State.vicWrite_joyLeft (r : Fin 16) (d : Byte) (s : State) : (vicWrite r d s).joyLeft = s.joyLeft := rfl
@[simp] theorem State.vicWrite_joyRight (r : Fin 16) (d : Byte) (s : State) : (vicWrite r d s).joyRight = s.joyRight := rfl
@[simp] theorem State.vicWrite_joyFire (r : Fin 16) (d : Byte) (s : State) : (vicWrite r d s).joyFire = s.joyFire := rfl
@[simp] theorem State.vicWrite_inj (r : Fin 16) (d : Byte) (s : State) : (vicWrite r d s).inj = s.inj := rfl
@[simp] theorem State.vicWrite_fcarry (r : Fin 16) (d : Byte) (s : State) : (vicWrite r d s).fcarry = s.fcarry := rfl
@[simp] theorem State.vicWrite_nmiPrev (r : Fin 16) (d : Byte) (s : State) : (vicWrite r d s).nmiPrev = s.nmiPrev := rfl
@[simp] theorem State.vicWrite_via1 (r : Fin 16) (d : Byte) (s : State) : (vicWrite r d s).via1 = s.via1 := rfl
@[simp] theorem State.vicWrite_via2 (r : Fin 16) (d : Byte) (s : State) : (vicWrite r d s).via2 = s.via2 := rfl
@[simp] theorem State.vicWrite_cpu (r : Fin 16) (d : Byte) (s : State) : (vicWrite r d s).cpu = s.cpu := rfl
@[simp] theorem State.vicWrite_queue (r : Fin 16) (d : Byte) (s : State) : (vicWrite r d s).queue = s.queue := rfl
@[simp] theorem State.vicWrite_events (r : Fin 16) (d : Byte) (s : State) : (vicWrite r d s).events = s.events := rfl
@[simp] theorem State.vicWrite_result (r : Fin 16) (d : Byte) (s : State) : (vicWrite r d s).result = s.result := rfl
@[simp] theorem State.vicWrite_presence (r : Fin 16) (d : Byte) (s : State) : (vicWrite r d s).presence = s.presence := rfl

/-- The presence at power-on. -/
theorem State.reset_presence : State.reset.presence = Presence.empty := by decide

/-- Two states whose configurations agree resolve addresses alike. -/
theorem State.target_congr (s t : State) (h : t.presence = s.presence) (a : Addr) : t.target a = s.target a := by
  simp only [State.target, h]

@[simp] theorem State.setRamByte_target (s : State) (a b : Addr) (v : Byte) :
    (s.setRamByte a v).target b = s.target b := rfl

@[simp] theorem State.emit_target (s : State) (e : Event) (b : Addr) : (s.emit e).target b = s.target b := rfl

@[simp] theorem State.setVia_target (s : State) (k : ViaId) (v : Via) (b : Addr) :
    (s.setVia k v).target b = s.target b := by cases k <;> rfl

end Sys2Proof.Machine
end

