-- ==== Sys2Proof/Laws/Memory.lean ====
section
/-! SUPPORT. The memory operations: what a read gives after a write, an erase or a filter, and that each keeps the
canonical form. -/

namespace Sys2Proof.Machine

variable {init : Byte} {m : Memory} {a b lo : Nat} {v : Byte}

theorem memSortedFrom_cons {k : Nat} {x : Byte} :
    memSortedFrom init lo ((k, x) :: m) = true ↔ lo ≤ k ∧ x ≠ init ∧ memSortedFrom init (k + 1) m = true := by
  simp [memSortedFrom, and_assoc]

/-- A canonical list above a bound is canonical above every lower bound. -/
theorem memSortedFrom_mono {lo' : Nat} (h : memSortedFrom init lo m = true) (hl : lo' ≤ lo) :
    memSortedFrom init lo' m = true := by
  cases m with
  | nil => rfl
  | cons c m =>
    obtain ⟨k, x⟩ := c
    rw [memSortedFrom_cons] at h ⊢
    exact ⟨hl.trans h.1, h.2⟩

/-- An address below every listed one reads as RAM_INIT. -/
theorem memRead_below (h : memSortedFrom init lo m = true) (hb : b < lo) : memRead init m b = init := by
  induction m generalizing lo with
  | nil => rfl
  | cons c m ih =>
    obtain ⟨k, x⟩ := c
    rw [memSortedFrom_cons] at h
    have hk : b ≠ k := by omega
    simp only [memRead, hk, if_false]
    exact ih h.2.2 (by omega)

/-- Reading after an insertion. -/
theorem memRead_memInsert : memRead init (memInsert m a v) b = if b = a then v else memRead init m b := by
  induction m with
  | nil => simp [memInsert, memRead]
  | cons c m ih =>
    obtain ⟨k, x⟩ := c
    simp only [memInsert]
    split
    · simp [memRead]
    · split
      · rename_i hak
        by_cases hb : b = k <;> simp [memRead, hb, hak]
      · simp only [memRead, ih]
        by_cases hb : b = k
        · simp [hb, show k ≠ a by omega]
        · simp [hb]

/-- Reading after an erasure, in a canonical memory. -/
theorem memRead_memErase (h : memSortedFrom init lo m = true) :
    memRead init (memErase m a) b = if b = a then init else memRead init m b := by
  induction m generalizing lo with
  | nil => simp [memErase, memRead]
  | cons c m ih =>
    obtain ⟨k, x⟩ := c
    rw [memSortedFrom_cons] at h
    simp only [memErase]
    by_cases ha : a = k
    · subst ha
      simp only [if_true, memRead]
      by_cases hb : b = a
      · subst hb
        simpa using memRead_below h.2.2 (Nat.lt_succ_self b)
      · simp [hb]
    · simp only [ha, if_false, memRead, ih h.2.2]
      by_cases hb : b = k
      · subst hb
        simp [show b ≠ a by omega]
      · simp [hb]

/-- Read after write: the written byte at its address, every other byte as it was. -/
theorem memRead_memWrite (h : Memory.wf init m = true) :
    memRead init (memWrite init m a v) b = if b = a then v else memRead init m b := by
  simp only [memWrite]
  split
  · subst_vars
    exact memRead_memErase h
  · exact memRead_memInsert

theorem memSortedFrom_memInsert (h : memSortedFrom init lo m = true) (hl : lo ≤ a) (hv : v ≠ init) :
    memSortedFrom init lo (memInsert m a v) = true := by
  induction m generalizing lo with
  | nil => simp [memInsert, memSortedFrom, hl, hv]
  | cons c m ih =>
    obtain ⟨k, x⟩ := c
    rw [memSortedFrom_cons] at h
    simp only [memInsert]
    split
    · rw [memSortedFrom_cons, memSortedFrom_cons]
      exact ⟨hl, hv, by omega, h.2⟩
    · split
      · subst_vars
        rw [memSortedFrom_cons]
        exact ⟨hl, hv, h.2.2⟩
      · rw [memSortedFrom_cons]
        exact ⟨h.1, h.2.1, ih h.2.2 (by omega)⟩

theorem memSortedFrom_memErase (h : memSortedFrom init lo m = true) :
    memSortedFrom init lo (memErase m a) = true := by
  induction m generalizing lo with
  | nil => rfl
  | cons c m ih =>
    obtain ⟨k, x⟩ := c
    rw [memSortedFrom_cons] at h
    simp only [memErase]
    split
    · exact memSortedFrom_mono h.2.2 (by omega)
    · rw [memSortedFrom_cons]
      exact ⟨h.1, h.2.1, ih h.2.2⟩

/-- A write keeps the canonical form. -/
theorem memWrite_wf (h : Memory.wf init m = true) : Memory.wf init (memWrite init m a v) = true := by
  simp only [memWrite]
  split
  · exact memSortedFrom_memErase h
  · exact memSortedFrom_memInsert h (Nat.zero_le _) ‹_›

/-- Dropping cells keeps the canonical form. -/
theorem memSortedFrom_filter (p : Host.Cell → Bool) (h : memSortedFrom init lo m = true) :
    memSortedFrom init lo (m.filter p) = true := by
  induction m generalizing lo with
  | nil => rfl
  | cons c m ih =>
    obtain ⟨k, x⟩ := c
    rw [memSortedFrom_cons] at h
    by_cases hp : p (k, x) = true
    · rw [List.filter_cons_of_pos hp, memSortedFrom_cons]
      exact ⟨h.1, h.2.1, ih h.2.2⟩
    · rw [List.filter_cons_of_neg hp]
      exact memSortedFrom_mono (ih h.2.2) (by omega)

theorem filter_wf (p : Host.Cell → Bool) (h : Memory.wf init m = true) : Memory.wf init (m.filter p) = true :=
  memSortedFrom_filter p h

/-- Reading after dropping cells by their address alone. -/
theorem memRead_filter (p : Host.Cell → Bool) (hp : ∀ k x y, p (k, x) = p (k, y)) :
    memRead init (m.filter p) b = if p (b, 0) = true then memRead init m b else init := by
  induction m with
  | nil => simp [memRead]
  | cons c m ih =>
    obtain ⟨k, x⟩ := c
    by_cases hk : p (k, x) = true
    · rw [List.filter_cons_of_pos hk]
      simp only [memRead, ih]
      by_cases hb : b = k
      · subst hb
        simp only [(hp b 0 x).trans hk, if_true]
      · simp [hb]
    · rw [List.filter_cons_of_neg hk, ih]
      by_cases hb : b = k
      · subst hb
        have hb0 : ¬p (b, 0) = true := fun h => hk ((hp b x 0).trans h)
        rw [if_neg hb0, if_neg hb0]
      · simp [memRead, hb]

/-- The cells of a written memory: those of the old one, or the written address. -/
theorem mem_memWrite {c : Host.Cell} (h : c ∈ memWrite init m a v) : c ∈ m ∨ c.1 = a := by
  have hins : ∀ m : Memory, c ∈ memInsert m a v → c ∈ m ∨ c.1 = a := by
    intro m
    induction m with
    | nil => simp +contextual [memInsert]
    | cons d m ih =>
      obtain ⟨k, x⟩ := d
      simp only [memInsert]
      split
      · simp only [List.mem_cons]
        rintro (rfl | h) <;> simp_all
      · split
        · simp only [List.mem_cons]
          rintro (rfl | h) <;> simp_all
        · simp only [List.mem_cons]
          rintro (rfl | h)
          · simp
          · rcases ih h with h | h <;> simp [h]
  have hera : ∀ m : Memory, c ∈ memErase m a → c ∈ m := by
    intro m
    induction m with
    | nil => simp [memErase]
    | cons d m ih =>
      obtain ⟨k, x⟩ := d
      simp only [memErase]
      split
      · intro h
        simp [h]
      · simp only [List.mem_cons]
        rintro (rfl | h)
        · simp
        · simp [ih h]
  simp only [memWrite] at h
  split at h
  · exact .inl (hera m h)
  · exact hins m h

/-- RAM after a write to RAM, in a canonical memory. -/
theorem State.ramByte_setRamByte (s : State) (a b : Addr) (v : Byte)
    (h : Memory.wf s.params.ramInit s.ram = true) :
    (s.setRamByte a v).ramByte b = if b = a then v else s.ramByte b := by
  simp only [State.ramByte, State.setRamByte_params, State.setRamByte_ram, memRead_memWrite h,
    BitVec.toNat_inj]

/-- The memory at power-on is canonical. -/
theorem reset_memory_wf : Memory.wf State.reset.params.ramInit State.reset.ram = true := rfl

end Sys2Proof.Machine
end

