-- ==== Sys2Proof/Laws/Bus.lean ====
section
/-! SUPPORT. What a bus access can do: the frame of each register contract, of BusRead and of BusWrite, said once. -/

namespace Sys2Proof.Machine

/-- Clearing no flag. -/
theorem clearFlags_zero (f : BitVec 7) : clearFlags f 0 = f := by
  have h : ~~~(0 : BitVec 7) = BitVec.allOnes 7 := rfl
  rw [clearFlags, h, BitVec.and_allOnes]

/-! ### The register contracts -/

/-- A register read of a timer/IO core can change the cores and the event history, nothing else. -/
theorem viaRead_frame (k : ViaId) (r : Fin 16) (s : State) :
    (viaRead k r s).2 =
      { s with
        via1 := (viaRead k r s).2.via1, via2 := (viaRead k r s).2.via2, events := (viaRead k r s).2.events } := by
  unfold viaRead
  split <;> cases k <;> rfl

/-- A register read of one core leaves the other alone. -/
theorem viaRead_other (k q : ViaId) (r : Fin 16) (s : State) (h : q ≠ k) :
    (viaRead k r s).2.via q = s.via q := by
  unfold viaRead
  split <;> cases k <;> cases q <;> first | rfl | exact absurd rfl h

/-- What a register read can change in its core: the two output registers, by live input bits, and flags, which it
can only clear. -/
theorem viaRead_core (k : ViaId) (r : Fin 16) (s : State) :
    ∃ (mask : BitVec 7) (ora orb : Byte),
      (viaRead k r s).2.via k = { s.via k with ora := ora, orb := orb, ifr := clearFlags (s.via k).ifr mask } := by
  have h0 := clearFlags_zero (s.via k).ifr
  unfold viaRead
  split <;> cases k <;> first | exact ⟨_, _, _, rfl⟩ | exact ⟨0, _, _, by rw [h0]; rfl⟩

/-- A register read records at most one event, a PortIn. -/
theorem viaRead_events (k : ViaId) (r : Fin 16) (s : State) :
    (viaRead k r s).2.events = s.events ∨
      ∃ p live, (viaRead k r s).2.events = .portIn k p live :: s.events := by
  unfold viaRead
  split <;> cases k <;> first | exact .inl rfl | exact .inr ⟨_, _, rfl⟩

/-- A write of PCR: the byte, the two requested levels, and one event for each (R178). -/
theorem viaWritePcr_eq (k : ViaId) (d : Byte) (s : State) :
    viaWritePcr k d s =
      { s.setVia k
          { s.via k with
            pcr := d
            ca2 := (manualLevel (d.extractLsb' 1 3)).getD (s.via k).ca2
            cb2 := (manualLevel (d.extractLsb' 5 3)).getD (s.via k).cb2 } with
        events :=
          ((manualLevel (d.extractLsb' 5 3)).map fun b => Event.lineOut k .cb2 b).toList ++
          ((manualLevel (d.extractLsb' 1 3)).map fun b => Event.lineOut k .ca2 b).toList ++ s.events } := by
  unfold viaWritePcr
  generalize manualLevel (d.extractLsb' 5 3) = rb
  generalize manualLevel (d.extractLsb' 1 3) = ra
  cases ra <;> cases rb <;> cases k <;> simp [driveCa2, driveCb2, State.setVia, State.via, State.emit]

/-- A register write of a timer/IO core can change the cores and the event history, nothing else. -/
theorem viaWrite_frame (k : ViaId) (r : Fin 16) (d : Byte) (s : State) :
    viaWrite k r d s =
      { s with
        via1 := (viaWrite k r d s).via1, via2 := (viaWrite k r d s).via2, events := (viaWrite k r d s).events } := by
  unfold viaWrite
  split
  case h_13 =>
    rw [viaWritePcr_eq]
    cases k <;> rfl
  all_goals cases k <;> rfl

/-- A register write of one core leaves the other alone. -/
theorem viaWrite_other (k q : ViaId) (r : Fin 16) (d : Byte) (s : State) (h : q ≠ k) :
    (viaWrite k r d s).via q = s.via q := by
  unfold viaWrite
  split
  case h_13 =>
    rw [viaWritePcr_eq]
    cases k <;> cases q <;> first | rfl | exact absurd rfl h
  all_goals cases k <;> cases q <;> first | rfl | exact absurd rfl h

/-- A register write leaves the precount delay alone (R171) and can only clear flags. -/
theorem viaWrite_core (k : ViaId) (r : Fin 16) (d : Byte) (s : State) :
    ((viaWrite k r d s).via k).t1pre = (s.via k).t1pre ∧
      ∃ mask, ((viaWrite k r d s).via k).ifr = clearFlags (s.via k).ifr mask := by
  have h0 := clearFlags_zero (s.via k).ifr
  unfold viaWrite
  split
  case h_13 =>
    rw [viaWritePcr_eq]
    cases k <;> exact ⟨rfl, 0, by rw [h0]; rfl⟩
  all_goals cases k <;> refine ⟨rfl, ?_⟩ <;> first | exact ⟨_, rfl⟩ | exact ⟨0, by rw [h0]; rfl⟩

/-- A register write records outputs only: PortOut of a port or of a control line. -/
theorem viaWrite_events (k : ViaId) (r : Fin 16) (d : Byte) (s : State) :
    ∃ new : List Event, (viaWrite k r d s).events = new ++ s.events ∧
      ∀ e ∈ new, (∃ p v ddr, e = .portOut k p v ddr) ∨ ∃ l level, e = .lineOut k l level := by
  unfold viaWrite
  split
  case h_13 =>
    rw [viaWritePcr_eq]
    refine ⟨_, rfl, fun e he => ?_⟩
    simp only [List.mem_append, Option.mem_toList, Option.map_eq_some_iff] at he
    rcases he with ⟨b, -, rfl⟩ | ⟨b, -, rfl⟩ <;> exact .inr ⟨_, _, rfl⟩
  case h_1 =>
    exact ⟨[.portOut k .b (maskOutput (s.via k).orb (s.via k).ddrb d) (s.via k).ddrb],
      by cases k <;> rfl, by simp⟩
  case h_2 =>
    exact ⟨[.portOut k .a (maskOutput (s.via k).ora (s.via k).ddra d) (s.via k).ddra],
      by cases k <;> rfl, by simp⟩
  case h_16 =>
    exact ⟨[.portOut k .a (maskOutput (s.via k).ora (s.via k).ddra d) (s.via k).ddra],
      by cases k <;> rfl, by simp⟩
  all_goals exact ⟨[], by cases k <;> rfl, by simp⟩

/-! ### Targets -/

/-- The presence the decoder sees, slot by slot. -/
@[simp] theorem State.presence_cart (s : State) (c : Fin 4) : s.presence.cart[c] = s.cartLength c := by
  fin_cases c <;> rfl

@[simp] theorem State.presence_exp (s : State) (b : Fin 5) : s.presence.exp[b] = s.expram[b] := rfl

/-- A row of the decode table that holds gives the target. -/
theorem State.target_eq {s : State} {a : Addr} {t : Target} (h : AddrCase s.presence a t) : s.target a = t :=
  decodeAddr_eq h

/-- The target of an address, by row. -/
theorem State.target_case (s : State) (a : Addr) : AddrCase s.presence a (s.target a) := decodeAddr_case _ _

/-- Both bus accesses at a RAM byte (R123 to R126, R130, R131). -/
theorem busAccess_ofRam (a : Addr) (v : Byte) (s : State)
    (h : s.target a = .ramLo ∨ s.target a = .ramMid ∨ s.target a = .colram ∨ ∃ b, s.target a = .expram b) :
    busRead a s = (s.ramByte a, s) ∧ videoRead a s = s.ramByte a ∧ busWrite a v s = s.setRamByte a v := by
  rcases h with h | h | h | ⟨b, h⟩ <;> simp only [busWrite, busRead, videoRead, storeByte, h, and_self]

/-- Both bus accesses at the floating bus (R65, R133). -/
theorem busAccess_ofFloat (a : Addr) (v : Byte) (s : State) (h : s.target a = .float) :
    busRead a s = (hiByte a, s) ∧ videoRead a s = hiByte a ∧ busWrite a v s = s := by
  simp only [busWrite, busRead, videoRead, storeByte, floatByte, h, and_self]

/-! ### BusRead and VideoRead -/

/-- The three cases of BusRead: a video register, a timer/IO register, or a store or nothing, which changes nothing
and gives the video engine's byte. -/
theorem busRead_cases (a : Addr) (s : State) :
    (∃ r, s.target a = .vic r ∧ busRead a s = (vicRead r s, s)) ∨
    (∃ k r, s.target a = .via k r ∧ busRead a s = viaRead k r s) ∨
    ((∀ r, s.target a ≠ .vic r) ∧ (∀ k r, s.target a ≠ .via k r) ∧ busRead a s = (videoRead a s, s)) := by
  simp only [busRead, videoRead]
  cases s.target a <;> simp

/-- BusRead can change the cores and the event history, nothing else. -/
theorem busRead_frame (a : Addr) (s : State) :
    (busRead a s).2 =
      { s with
        via1 := (busRead a s).2.via1, via2 := (busRead a s).2.via2, events := (busRead a s).2.events } := by
  rcases busRead_cases a s with ⟨r, -, h⟩ | ⟨k, r, -, h⟩ | ⟨-, -, h⟩
  · rw [h]
  · rw [h]
    exact viaRead_frame k r s
  · rw [h]

@[simp] theorem busRead_params (a : Addr) (s : State) : (busRead a s).2.params = s.params := by rw [busRead_frame]
@[simp] theorem busRead_ram (a : Addr) (s : State) : (busRead a s).2.ram = s.ram := by rw [busRead_frame]
@[simp] theorem busRead_expram (a : Addr) (s : State) : (busRead a s).2.expram = s.expram := by rw [busRead_frame]
@[simp] theorem busRead_cart (a : Addr) (s : State) : (busRead a s).2.cart = s.cart := by rw [busRead_frame]
@[simp] theorem busRead_inj (a : Addr) (s : State) : (busRead a s).2.inj = s.inj := by rw [busRead_frame]
@[simp] theorem busRead_vic (a : Addr) (s : State) : (busRead a s).2.vic = s.vic := by rw [busRead_frame]
@[simp] theorem busRead_cpu (a : Addr) (s : State) : (busRead a s).2.cpu = s.cpu := by rw [busRead_frame]
@[simp] theorem busRead_nmiPrev (a : Addr) (s : State) : (busRead a s).2.nmiPrev = s.nmiPrev := by rw [busRead_frame]
@[simp] theorem busRead_fcarry (a : Addr) (s : State) : (busRead a s).2.fcarry = s.fcarry := by rw [busRead_frame]

/-- VideoRead depends on the RAM and on what is installed. -/
theorem videoRead_congr (s t : State) (a : Addr) (hp : t.params.ramInit = s.params.ramInit) (hr : t.ram = s.ram)
    (he : t.expram = s.expram) (hc : t.cart = s.cart) : videoRead a t = videoRead a s := by
  have ht : t.target a = s.target a := by
    simp only [State.target, State.presence, State.cartLength, he, hc]
  simp only [videoRead, storeByte, ht, State.ramByte, State.cartByte, hp, hr, hc]

/-! ### BusWrite -/

/-- The four cases of BusWrite: a RAM byte, a video register, a timer/IO register, or discarded (R66). -/
theorem busWrite_cases (a : Addr) (v : Byte) (s : State) :
    ((s.target a = .ramLo ∨ s.target a = .ramMid ∨ s.target a = .colram ∨ ∃ b, s.target a = .expram b) ∧
      busWrite a v s = s.setRamByte a v) ∨
    (∃ r, s.target a = .vic r ∧ busWrite a v s = vicWrite r v s) ∨
    (∃ k r, s.target a = .via k r ∧ busWrite a v s = viaWrite k r v s) ∨
    busWrite a v s = s := by
  simp only [busWrite]
  cases s.target a <;> simp

/-- BusWrite can change RAM bytes, the cores, the video registers and the event history, nothing else. -/
theorem busWrite_frame (a : Addr) (v : Byte) (s : State) :
    busWrite a v s =
      { s with
        ram := (busWrite a v s).ram
        via1 := (busWrite a v s).via1
        via2 := (busWrite a v s).via2
        vic := { s.vic with regs := (busWrite a v s).vic.regs }
        events := (busWrite a v s).events } := by
  rcases busWrite_cases a v s with ⟨-, h⟩ | ⟨r, -, h⟩ | ⟨k, r, -, h⟩ | h
  · rw [h]
    rfl
  · rw [h]
    rfl
  · rw [h]
    conv_lhs => rw [viaWrite_frame]
    conv_rhs => rw [viaWrite_frame]
  · rw [h]

@[simp] theorem busWrite_params (a : Addr) (v : Byte) (s : State) : (busWrite a v s).params = s.params := by
  rw [busWrite_frame]
@[simp] theorem busWrite_expram (a : Addr) (v : Byte) (s : State) : (busWrite a v s).expram = s.expram := by
  rw [busWrite_frame]
@[simp] theorem busWrite_cart (a : Addr) (v : Byte) (s : State) : (busWrite a v s).cart = s.cart := by
  rw [busWrite_frame]
@[simp] theorem busWrite_inj (a : Addr) (v : Byte) (s : State) : (busWrite a v s).inj = s.inj := by
  rw [busWrite_frame]
@[simp] theorem busWrite_cpu (a : Addr) (v : Byte) (s : State) : (busWrite a v s).cpu = s.cpu := by
  rw [busWrite_frame]
@[simp] theorem busWrite_nmiPrev (a : Addr) (v : Byte) (s : State) : (busWrite a v s).nmiPrev = s.nmiPrev := by
  rw [busWrite_frame]
@[simp] theorem busWrite_fcarry (a : Addr) (v : Byte) (s : State) : (busWrite a v s).fcarry = s.fcarry := by
  rw [busWrite_frame]
@[simp] theorem busWrite_hpos (a : Addr) (v : Byte) (s : State) : (busWrite a v s).vic.hpos = s.vic.hpos := by
  rw [busWrite_frame]
@[simp] theorem busWrite_vpos (a : Addr) (v : Byte) (s : State) : (busWrite a v s).vic.vpos = s.vic.vpos := by
  rw [busWrite_frame]

/-- What BusWrite does to RAM: one byte at a RAM address, or nothing. -/
theorem busWrite_ram (a : Addr) (v : Byte) (s : State) :
    ((s.target a = .ramLo ∨ s.target a = .ramMid ∨ s.target a = .colram ∨ ∃ b, s.target a = .expram b) ∧
      (busWrite a v s).ram = memWrite s.params.ramInit s.ram a.toNat v) ∨
    (busWrite a v s).ram = s.ram := by
  rcases busWrite_cases a v s with ⟨ht, h⟩ | ⟨r, -, h⟩ | ⟨k, r, -, h⟩ | h
  · exact .inl ⟨ht, by rw [h]; rfl⟩
  · exact .inr (by rw [h]; rfl)
  · exact .inr (by rw [h, viaWrite_frame])
  · exact .inr (by rw [h])

/-- BusWrite keeps the canonical form of the memory. -/
theorem busWrite_wf (a : Addr) (v : Byte) (s : State) (h : Memory.wf s.params.ramInit s.ram = true) :
    Memory.wf s.params.ramInit (busWrite a v s).ram = true := by
  rcases busWrite_ram a v s with ⟨-, hr⟩ | hr
  · rw [hr]
    exact memWrite_wf h
  · rwa [hr]

/-- A bus access only clears flags, in either core. -/
theorem busRead_ifr (a : Addr) (s : State) (q : ViaId) :
    ∃ mask, ((busRead a s).2.via q).ifr = clearFlags (s.via q).ifr mask := by
  have h0 := clearFlags_zero (s.via q).ifr
  rcases busRead_cases a s with ⟨r, -, h⟩ | ⟨k, r, -, h⟩ | ⟨-, -, h⟩
  · exact ⟨0, by rw [h, h0]⟩
  · rw [h]
    by_cases hq : q = k
    · subst hq
      obtain ⟨m, x, y, hc⟩ := viaRead_core q r s
      exact ⟨m, by rw [hc]⟩
    · exact ⟨0, by rw [viaRead_other k q r s hq, h0]⟩
  · exact ⟨0, by rw [h, h0]⟩

theorem busWrite_ifr (a : Addr) (v : Byte) (s : State) (q : ViaId) :
    ∃ mask, ((busWrite a v s).via q).ifr = clearFlags (s.via q).ifr mask := by
  have h0 := clearFlags_zero (s.via q).ifr
  rcases busWrite_cases a v s with ⟨-, h⟩ | ⟨r, -, h⟩ | ⟨k, r, -, h⟩ | h
  · exact ⟨0, by rw [h, h0]; cases q <;> rfl⟩
  · exact ⟨0, by rw [h, h0]; cases q <;> rfl⟩
  · rw [h]
    by_cases hq : q = k
    · subst hq
      exact (viaWrite_core q r v s).2
    · exact ⟨0, by rw [viaWrite_other k q r v s hq, h0]⟩
  · exact ⟨0, by rw [h, h0]⟩

/-- A bus access leaves the precount delay alone. -/
theorem busRead_t1pre (a : Addr) (s : State) (q : ViaId) :
    ((busRead a s).2.via q).t1pre = (s.via q).t1pre := by
  rcases busRead_cases a s with ⟨r, -, h⟩ | ⟨k, r, -, h⟩ | ⟨-, -, h⟩
  · rw [h]
  · rw [h]
    by_cases hq : q = k
    · subst hq
      obtain ⟨m, x, y, hc⟩ := viaRead_core q r s
      rw [hc]
    · rw [viaRead_other k q r s hq]
  · rw [h]

theorem busWrite_t1pre (a : Addr) (v : Byte) (s : State) (q : ViaId) :
    ((busWrite a v s).via q).t1pre = (s.via q).t1pre := by
  rcases busWrite_cases a v s with ⟨-, h⟩ | ⟨r, -, h⟩ | ⟨k, r, -, h⟩ | h
  · rw [h]
    cases q <;> rfl
  · rw [h]
    cases q <;> rfl
  · rw [h]
    by_cases hq : q = k
    · subst hq
      exact (viaWrite_core q r v s).1
    · rw [viaWrite_other k q r v s hq]
  · rw [h]

/-- A bus access signals no interrupt. -/
theorem busRead_events (a : Addr) (s : State) :
    ∃ new : List Event, (busRead a s).2.events = new ++ s.events ∧ .cpuNmi ∉ new ∧ .cpuIrq ∉ new := by
  rcases busRead_cases a s with ⟨r, -, h⟩ | ⟨k, r, -, h⟩ | ⟨-, -, h⟩
  · exact ⟨[], by rw [h]; simp⟩
  · rw [h]
    rcases viaRead_events k r s with he | ⟨p, live, he⟩
    · exact ⟨[], by rw [he]; simp⟩
    · exact ⟨[.portIn k p live], by rw [he]; simp⟩
  · exact ⟨[], by rw [h]; simp⟩

theorem busWrite_events (a : Addr) (v : Byte) (s : State) :
    ∃ new : List Event, (busWrite a v s).events = new ++ s.events ∧ .cpuNmi ∉ new ∧ .cpuIrq ∉ new := by
  rcases busWrite_cases a v s with ⟨-, h⟩ | ⟨r, -, h⟩ | ⟨k, r, -, h⟩ | h
  · exact ⟨[], by rw [h]; simp⟩
  · exact ⟨[], by rw [h]; simp⟩
  · rw [h]
    obtain ⟨new, he, hall⟩ := viaWrite_events k r v s
    refine ⟨new, he, ?_, ?_⟩
    · intro hm
      rcases hall _ hm with ⟨p, x, y, h⟩ | ⟨l, b, h⟩ <;> cases h
    · intro hm
      rcases hall _ hm with ⟨p, x, y, h⟩ | ⟨l, b, h⟩ <;> cases h
  · exact ⟨[], by rw [h]; simp⟩

end Sys2Proof.Machine
end

