-- ==== Sys2Proof/Laws/Ticks.lean ====
section
/-! SUPPORT. What a tick can do: the two timers, the edge detector, the raster, the fan-out and its frame. -/

namespace Sys2Proof.Machine

/-! ### One timer/IO core -/

/-- The three cases of timer 1: held by the precount, expiring, or counting (R185). -/
theorem tickT1_cases (v : Via) :
    (0 < v.t1pre ∧ tickT1 v = { v with t1pre := v.t1pre - 1 }) ∨
    (v.t1pre = 0 ∧ v.t1c - 1 = 0 ∧ v.t1trig = false ∧
      tickT1 v =
        if v.acr.getLsbD 6 then { v with t1c := v.t1l, ifr := setFlags v.ifr flagT1, t1pre := 2 }
        else { v with t1c := v.t1c - 1, ifr := setFlags v.ifr flagT1, t1trig := true }) ∨
    (v.t1pre = 0 ∧ ¬(v.t1c - 1 = 0 ∧ v.t1trig = false) ∧ tickT1 v = { v with t1c := v.t1c - 1 }) := by
  unfold tickT1
  split
  · exact .inl ⟨‹_›, rfl⟩
  · rename_i hp
    have hp : v.t1pre = 0 := by omega
    dsimp only
    split
    · rename_i hc
      exact .inr (.inl ⟨hp, hc.1, hc.2, rfl⟩)
    · exact .inr (.inr ⟨hp, ‹_›, rfl⟩)

/-- The three cases of timer 2: held, expiring, or counting (R186). -/
theorem tickT2_cases (v : Via) :
    (v.acr.getLsbD 5 = true ∧ tickT2 v = v) ∨
    (v.acr.getLsbD 5 = false ∧ v.t2c - 1 = 0 ∧ v.t2trig = false ∧
      tickT2 v = { v with t2c := v.t2c - 1, t2trig := true, ifr := setFlags v.ifr flagT2 }) ∨
    (v.acr.getLsbD 5 = false ∧ ¬(v.t2c - 1 = 0 ∧ v.t2trig = false) ∧
      tickT2 v = { v with t2c := v.t2c - 1 }) := by
  unfold tickT2
  split
  · exact .inl ⟨‹_›, rfl⟩
  · rename_i ha
    have ha : v.acr.getLsbD 5 = false := by simpa using ha
    dsimp only
    split
    · rename_i hc
      exact .inr (.inl ⟨ha, hc.1, hc.2, rfl⟩)
    · exact .inr (.inr ⟨ha, ‹_›, rfl⟩)

/-- Timer 1 touches its counter, its delay, its trigger and its flag. -/
theorem tickT1_frame (v : Via) :
    tickT1 v =
      { v with
        t1c := (tickT1 v).t1c, t1pre := (tickT1 v).t1pre, t1trig := (tickT1 v).t1trig, ifr := (tickT1 v).ifr } := by
  rcases tickT1_cases v with ⟨-, h⟩ | ⟨-, -, -, h⟩ | ⟨-, -, h⟩
  · rw [h]
  · rw [h]
    split <;> rfl
  · rw [h]

/-- Timer 2 touches its counter, its trigger and its flag. -/
theorem tickT2_frame (v : Via) :
    tickT2 v = { v with t2c := (tickT2 v).t2c, t2trig := (tickT2 v).t2trig, ifr := (tickT2 v).ifr } := by
  rcases tickT2_cases v with ⟨-, h⟩ | ⟨-, -, -, h⟩ | ⟨-, -, h⟩ <;> rw [h]

/-- Timer 1 sets its own flag or none. -/
theorem tickT1_ifr (v : Via) : (tickT1 v).ifr = v.ifr ∨ (tickT1 v).ifr = setFlags v.ifr flagT1 := by
  rcases tickT1_cases v with ⟨-, h⟩ | ⟨-, -, -, h⟩ | ⟨-, -, h⟩
  · exact .inl (by rw [h])
  · exact .inr (by rw [h]; split <;> rfl)
  · exact .inl (by rw [h])

/-- Timer 2 sets its own flag or none. -/
theorem tickT2_ifr (v : Via) : (tickT2 v).ifr = v.ifr ∨ (tickT2 v).ifr = setFlags v.ifr flagT2 := by
  rcases tickT2_cases v with ⟨-, h⟩ | ⟨-, -, -, h⟩ | ⟨-, -, h⟩
  · exact .inl (by rw [h])
  · exact .inr (by rw [h])
  · exact .inl (by rw [h])

/-- The edge detector sets CA1's flag or none (R187). -/
theorem tickEdges_ifr (v : Via) : (tickEdges v).ifr = v.ifr ∨ (tickEdges v).ifr = setFlags v.ifr flagCa1 := by
  simp only [tickEdges]
  split
  · exact .inr rfl
  · exact .inl rfl

/-- What a core tick cannot touch. -/
theorem viaTick_frame (v : Via) :
    viaTick v =
      { v with
        t1c := (tickT1 v).t1c
        t1pre := (tickT1 v).t1pre
        t1trig := (tickT1 v).t1trig
        t2c := (tickT2 v).t2c
        t2trig := (tickT2 v).t2trig
        ifr := (viaTick v).ifr
        ca1Prev := v.ca1
        ca2Prev := v.ca2
        cb1Prev := v.cb1
        cb2Prev := v.cb2 } := by
  obtain ⟨c, p, g, f, h⟩ : ∃ c p g f, tickT1 v = { v with t1c := c, t1pre := p, t1trig := g, ifr := f } :=
    ⟨_, _, _, _, tickT1_frame v⟩
  simp only [viaTick, tickEdges, h, tickT2]
  by_cases ha : v.acr.getLsbD 5 = true
  · simp only [ha, if_true]
  · by_cases hc : v.t2c - 1 = 0 ∧ v.t2trig = false <;> simp only [ha, hc, if_false] <;> rfl

/-- A core tick sets at most the flags of timer 1, timer 2 and CA1 (R292). -/
theorem viaTick_ifr (v : Via) :
    ∃ mask, mask &&& 0x1D#7 = 0 ∧ (viaTick v).ifr = setFlags v.ifr mask := by
  have key : ∀ a b c d : BitVec 7,
      (b = a ∨ b = setFlags a flagT1) → (c = b ∨ c = setFlags b flagT2) → (d = c ∨ d = setFlags c flagCa1) →
      ∃ mask, mask &&& 0x1D#7 = 0 ∧ d = setFlags a mask := by
    rintro a b c d (rfl | rfl) (rfl | rfl) (rfl | rfl)
    · exact ⟨0, by decide, by simp [setFlags]⟩
    · exact ⟨flagCa1, by decide, rfl⟩
    · exact ⟨flagT2, by decide, rfl⟩
    · exact ⟨flagT2 ||| flagCa1, by decide, by simp only [setFlags, BitVec.or_assoc]⟩
    · exact ⟨flagT1, by decide, rfl⟩
    · exact ⟨flagT1 ||| flagCa1, by decide, by simp only [setFlags, BitVec.or_assoc]⟩
    · exact ⟨flagT1 ||| flagT2, by decide, by simp only [setFlags, BitVec.or_assoc]⟩
    · exact ⟨flagT1 ||| (flagT2 ||| flagCa1), by decide, by simp only [setFlags, BitVec.or_assoc]⟩
  exact key _ _ _ _ (tickT1_ifr v) (tickT2_ifr _) (tickEdges_ifr _)

/-- The precount delay stays at 0 to 2. -/
theorem viaTick_t1pre (v : Via) (h : v.t1pre ≤ 2) : (viaTick v).t1pre ≤ 2 := by
  rw [viaTick_frame]
  rcases tickT1_cases v with ⟨-, e⟩ | ⟨-, -, -, e⟩ | ⟨-, -, e⟩ <;> rw [e]
  · dsimp only
    omega
  · split
    · exact Nat.le_refl 2
    · exact h
  · exact h

/-! ### The raster -/

/-- The scan moves within the line, to the next line, or to the first (R215). -/
theorem advanceScan_cases (p : Config.Params) (v : Vic) :
    (v.hpos + p.stride < p.htotal ∧ advanceScan p v = { v with hpos := v.hpos + p.stride }) ∨
    (p.htotal ≤ v.hpos + p.stride ∧ v.vpos + 1 < p.vtotal ∧
      advanceScan p v = { v with hpos := 0, vpos := v.vpos + 1 }) ∨
    (p.htotal ≤ v.hpos + p.stride ∧ p.vtotal ≤ v.vpos + 1 ∧ advanceScan p v = { v with hpos := 0, vpos := 0 }) := by
  unfold advanceScan
  split
  · exact .inl ⟨‹_›, rfl⟩
  · split
    · exact .inr (.inl ⟨by omega, ‹_›, rfl⟩)
    · exact .inr (.inr ⟨by omega, by omega, rfl⟩)

@[simp] theorem advanceScan_regs (p : Config.Params) (v : Vic) : (advanceScan p v).regs = v.regs := by
  rcases advanceScan_cases p v with ⟨-, h⟩ | ⟨-, -, h⟩ | ⟨-, -, h⟩ <;> rw [h]

/-- The scan stays inside the frame. -/
theorem advanceScan_inFrame (p : Config.Params) (v : Vic) (hh : 0 < p.htotal) (hv : 0 < p.vtotal)
    (h : v.vpos < p.vtotal) (hm : v.hpos % p.stride = 0) :
    (advanceScan p v).hpos < p.htotal ∧ (advanceScan p v).vpos < p.vtotal ∧ (advanceScan p v).hpos % p.stride = 0 := by
  rcases advanceScan_cases p v with ⟨h1, e⟩ | ⟨h1, h2, e⟩ | ⟨h1, h2, e⟩ <;> rw [e]
  · exact ⟨h1, h, by simpa using hm⟩
  · exact ⟨hh, h2, Nat.zero_mod _⟩
  · exact ⟨hh, hv, Nat.zero_mod _⟩

/-! ### Pixels -/

/-- A pixel's colour depends on the parameters, the RAM, what is installed and the video registers. -/
theorem pixelColor_congr (s t : State) (px y : Nat) (hp : t.params = s.params) (hr : t.ram = s.ram)
    (he : t.expram = s.expram) (hc : t.cart = s.cart) (hv : t.vic = s.vic) : pixelColor px y t = pixelColor px y s := by
  have hread : ∀ a, videoRead a t = videoRead a s := fun a => videoRead_congr s t a (by rw [hp]) hr he hc
  have hl : leftEdge t = leftEdge s := by simp only [leftEdge, hp, hv]
  have htop : topEdge t = topEdge s := by simp only [topEdge, hp, hv]
  have hh : charH t = charH s := by simp only [charH, hv]
  have hcols : cols t = cols s := by simp only [cols, hv]
  have hrows : rows t = rows s := by simp only [rows, hv]
  have harea : inArea px y t = inArea px y s := by
    unfold inArea areaW areaH
    rw [hl, htop, hh, hcols, hrows]
  have hidx : cellIndex px y t = cellIndex px y s := by simp only [cellIndex, hl, htop, hh, hcols]
  have hcode : cellCode px y t = cellCode px y s := by
    simp only [cellCode, screenBase, screenVa, hidx, hread, hv]
  have hcol : cellColor px y t = cellColor px y s := by simp only [cellColor, colorBase, hidx, hread, hv]
  have hbits : cellBits px y t = cellBits px y s := by
    simp only [cellBits, glyphAddr, charVa, hcode, htop, hh, hread, hv]
  have hborder : borderColor t = borderColor s := by simp only [borderColor, hv]
  have hback : backgroundColor t = backgroundColor s := by simp only [backgroundColor, hv]
  have haux : auxColor t = auxColor s := by simp only [auxColor, hv]
  have hinv : inverted t = inverted s := by simp only [inverted, hv]
  have hmulti : ∀ bits c b, multiColor bits c b t = multiColor bits c b s := by
    intro bits c b
    unfold multiColor
    rw [hborder, hback, haux]
  simp only [pixelColor, hiresColor, harea, hcol, hbits, hl, hborder, hback, hinv, hmulti]

/-- The pixels of a group depend on the same. -/
theorem groupPixels_congr (s t : State) (x y n : Nat) (hp : t.params = s.params) (hr : t.ram = s.ram)
    (he : t.expram = s.expram) (hc : t.cart = s.cart) (hv : t.vic = s.vic) :
    groupPixels x y n t = groupPixels x y n s := by
  simp only [groupPixels, pixelColor_congr s t _ _ hp hr he hc hv]

/-! ### The fan-out -/

/-- Asking the CPU uses up one answer and changes nothing else. -/
theorem askIrqEnabled_frame (s : State) :
    (askIrqEnabled s).2 = { s with cpu := { s.cpu with irqAnswers := s.cpu.irqAnswers.tail } } := by
  unfold askIrqEnabled
  split
  · rename_i h
    rw [h, List.tail_nil, ← h]
  · rename_i h
    rw [h, List.tail_cons]

/-- VIA1's half of the fan-out. -/
theorem tickVia1_eq (s : State) :
    tickVia1 s =
      { s with
        via1 := viaTick s.via1
        nmiPrev := irqLine (viaTick s.via1)
        events := (if irqLine (viaTick s.via1) && !s.nmiPrev then [.cpuNmi] else []) ++ s.events } := by
  simp only [tickVia1, deliverNmi, State.emit]
  cases irqLine (viaTick s.via1) && !s.nmiPrev <;> rfl

/-- VIA2's half of the fan-out. -/
theorem tickVia2_eq (s : State) :
    tickVia2 s =
      { s with
        via2 := viaTick s.via2
        cpu := { s.cpu with irqAnswers := s.cpu.irqAnswers.tail }
        events := (if irqLine (viaTick s.via2) && (askIrqEnabled s).1 then [.cpuIrq] else []) ++ s.events } := by
  have ha : (askIrqEnabled { s with via2 := viaTick s.via2 }).1 = (askIrqEnabled s).1 := by
    simp only [askIrqEnabled]
    cases s.cpu.irqAnswers <;> rfl
  simp only [tickVia2, deliverIrq, State.emit, askIrqEnabled_frame, ha]
  cases irqLine (viaTick s.via2) && (askIrqEnabled s).1 <;> rfl

/-- The raster's part of the fan-out records pixels and moves the scan. -/
theorem vicTick_frame (s : State) :
    ∃ new : List Event, (∀ e ∈ new, ∃ x y c, e = .pixel x y c) ∧
      vicTick s = { s with vic := advanceScan s.params s.vic, events := new ++ s.events } := by
  simp only [vicTick]
  split
  · refine ⟨_, fun e he => ?_, rfl⟩
    simp only [groupPixels, List.mem_reverse, List.mem_map] at he
    obtain ⟨i, -, rfl⟩ := he
    exact ⟨_, _, _, rfl⟩
  · exact ⟨[], by simp, rfl⟩

/-- A tick can change the cores, the NMI sample, the scan, the CPU's answers and the event history, nothing else. -/
theorem tick_frame (s : State) :
    tick s =
      { s with
        via1 := viaTick s.via1
        nmiPrev := irqLine (viaTick s.via1)
        via2 := viaTick s.via2
        vic := advanceScan s.params s.vic
        cpu := { s.cpu with irqAnswers := s.cpu.irqAnswers.tail }
        events := (tick s).events } := by
  obtain ⟨new, -, h⟩ := vicTick_frame (tickVia2 (tickVia1 s))
  rw [tick, h, tickVia2_eq, tickVia1_eq]

@[simp] theorem tick_params (s : State) : (tick s).params = s.params := by rw [tick_frame]
@[simp] theorem tick_ram (s : State) : (tick s).ram = s.ram := by rw [tick_frame]
@[simp] theorem tick_expram (s : State) : (tick s).expram = s.expram := by rw [tick_frame]
@[simp] theorem tick_cart (s : State) : (tick s).cart = s.cart := by rw [tick_frame]
@[simp] theorem tick_inj (s : State) : (tick s).inj = s.inj := by rw [tick_frame]
@[simp] theorem tick_fcarry (s : State) : (tick s).fcarry = s.fcarry := by rw [tick_frame]
@[simp] theorem tick_via1 (s : State) : (tick s).via1 = viaTick s.via1 := by rw [tick_frame]
@[simp] theorem tick_via2 (s : State) : (tick s).via2 = viaTick s.via2 := by rw [tick_frame]
@[simp] theorem tick_nmiPrev (s : State) : (tick s).nmiPrev = irqLine (viaTick s.via1) := by rw [tick_frame]
@[simp] theorem tick_vic (s : State) : (tick s).vic = advanceScan s.params s.vic := by rw [tick_frame]
@[simp] theorem tick_irqAnswers (s : State) : (tick s).cpu.irqAnswers = s.cpu.irqAnswers.tail := by rw [tick_frame]
@[simp] theorem tick_irqIdle (s : State) : (tick s).cpu.irqIdle = s.cpu.irqIdle := by rw [tick_frame]
@[simp] theorem tick_cpuSteps (s : State) : (tick s).cpu.steps = s.cpu.steps := by rw [tick_frame]
@[simp] theorem tick_cpuIdle (s : State) : (tick s).cpu.idle = s.cpu.idle := by rw [tick_frame]

/-- A core after a tick, by number. -/
@[simp] theorem tick_via (s : State) (k : ViaId) : (tick s).via k = viaTick (s.via k) := by
  cases k <;> simp [State.via]

end Sys2Proof.Machine
end

