-- ==== Sys2Proof/Laws/Orchestrator.lean ====
section
/-! SUPPORT. The operations made of bus accesses and ticks: one induction for all of them. A relation between states
that a bus access, a tick and a change of the CPU's side keep is kept by every CPU step, by the frame loop and by the
loaders. -/

namespace Sys2Proof.Machine

/-- A reflexive and transitive relation that every bus access and every change of the CPU's own data keeps. -/
structure BusStable (R : State → State → Prop) : Prop where
  refl : ∀ s, R s s
  trans : ∀ {s t u}, R s t → R t u → R s u
  read : ∀ a s, R s (busRead a s).2
  write : ∀ a v s, R s (busWrite a v s)
  cpu : ∀ s c, R s { s with cpu := c }

namespace BusStable

variable {R : State → State → Prop}

theorem cpuAccess (h : BusStable R) (s : State) (x : BusAccess) : R s (Machine.cpuAccess s x) := by
  cases x with
  | read a => exact h.trans (h.read a s) (h.cpu _ _)
  | write a v => exact h.write a v s

theorem cpuAccesses (h : BusStable R) (xs : List BusAccess) (s : State) : R s (Machine.cpuAccesses xs s) := by
  induction xs generalizing s with
  | nil => exact h.refl s
  | cons x xs ih => exact h.trans (h.cpuAccess s x) (ih _)

theorem cpuReset (h : BusStable R) (s : State) : R s (Machine.cpuReset s) := by
  simp only [Machine.cpuReset]
  split
  · exact h.cpu _ _
  · exact h.trans (h.cpu s _) (h.cpuAccesses _ _)

theorem ticks (h : BusStable R) (ht : ∀ s, R s (tick s)) (n : Nat) (s : State) : R s (Machine.ticks n s) := by
  induction n generalizing s with
  | zero => exact h.refl s
  | succ n ih => exact h.trans (ht s) (ih _)

theorem runCpuStep (h : BusStable R) (ht : ∀ s, R s (tick s)) (c : CpuStep) (s : State) :
    R s (Machine.runCpuStep c s) :=
  h.trans (h.cpuAccesses _ s) (h.ticks ht _ _)

theorem frameLoop (h : BusStable R) (ht : ∀ s, R s (tick s)) {budget : Nat} {idle : CpuStep} {fuel acc : Nat}
    {steps : List CpuStep} {s : State} {out : Nat × List CpuStep × State}
    (he : Machine.frameLoop budget idle fuel acc steps s = some out) : R s out.2.2 := by
  induction fuel generalizing acc steps s with
  | zero =>
    cases he
    exact h.refl s
  | succ n ih =>
    simp only [Machine.frameLoop] at he
    split at he
    · split at he
      · cases he
      · exact h.trans (h.runCpuStep ht _ s) (ih he)
    · cases he
      exact h.refl s

theorem injectLoop (h : BusStable R) (m : Byte) (text : List Byte) (n : Byte) (i : Nat) (s : State) :
    R s (Machine.injectLoop m text n i s).2 := by
  induction text generalizing n i s with
  | nil => exact h.refl s
  | cons ch rest ih =>
    simp only [Machine.injectLoop]
    split
    · exact h.trans (h.trans (h.write _ _ s) (h.write _ _ _)) (ih _ _ _)
    · exact h.refl s

theorem writeBytes (h : BusStable R) (a : Addr) (data : List Byte) (s : State) :
    R s (Machine.writeBytes a data s) := by
  induction data generalizing a s with
  | nil => exact h.refl s
  | cons b rest ih => exact h.trans (h.write a b s) (ih _ _)

theorem patchPtrs (h : BusStable R) (ps : List Addr) (e : BitVec 16) (s : State) :
    R s (Machine.patchPtrs ps e s) := by
  induction ps generalizing s with
  | nil => exact h.refl s
  | cons p ps ih => exact h.trans (h.trans (h.write _ _ s) (h.write _ _ _)) (ih _)

/-- ServiceInjection, for a relation that a change of INJ keeps as well. -/
theorem serviceInjection (h : BusStable R) (hj : ∀ s j, R s { s with inj := j }) (s : State) :
    R s (Machine.serviceInjection s) := by
  simp only [Machine.serviceInjection]
  split
  · exact h.refl s
  · exact h.trans (h.trans (h.trans (h.read _ s) (h.read _ _)) (h.injectLoop _ _ _ _ _)) (hj _ _)

/-- RunFrame, for a relation that a tick and a change of INJ, the carry or the result keep as well. -/
theorem runFrame (h : BusStable R) (ht : ∀ s, R s (tick s)) (hj : ∀ s j, R s { s with inj := j })
    (hc : ∀ s n, R s { s with fcarry := n }) (hr : ∀ s r, R s { s with result := r }) {s t : State}
    (he : Machine.runFrame s = some t) : R s t := by
  simp only [Machine.runFrame] at he
  split at he
  · cases he
  · rename_i acc steps s1 hl
    cases he
    have h1 : R s s1 := h.frameLoop ht hl
    have h2 : R s1 { s1 with cpu := { s1.cpu with steps := steps }, fcarry := acc - s.params.frameBudget } :=
      h.trans (h.cpu s1 { s1.cpu with steps := steps }) (hc { s1 with cpu := { s1.cpu with steps := steps } } _)
    exact h.trans (h.trans h1 h2) (h.trans (h.serviceInjection hj _) (hr _ _))

/-- The program loader, for a relation that a change of INJ keeps as well. -/
theorem loadPrg (h : BusStable R) (hj : ∀ s j, R s { s with inj := j }) (buf : List Byte) (run : Bool) (s : State) :
    R s (Machine.loadPrg buf run s) := by
  unfold Machine.loadPrg
  split
  · dsimp only
    split
    · exact h.trans (h.trans (h.writeBytes _ _ s) (h.patchPtrs _ _ _)) (hj _ _)
    · exact h.trans (h.writeBytes _ _ s) (h.patchPtrs _ _ _)
  · exact h.refl s

end BusStable

/-- The parameters and what is installed. -/
theorem config_stable : BusStable fun s t => t.params = s.params ∧ t.expram = s.expram ∧ t.cart = s.cart where
  refl _ := ⟨rfl, rfl, rfl⟩
  trans h1 h2 := ⟨h2.1.trans h1.1, h2.2.1.trans h1.2.1, h2.2.2.trans h1.2.2⟩
  read a s := by simp
  write a v s := by simp
  cpu _ _ := ⟨rfl, rfl, rfl⟩

/-! ### The frame loop -/

/-- One turn of the frame loop. -/
theorem frameLoop_succ (budget : Nat) (idle : CpuStep) (fuel acc : Nat) (steps : List CpuStep) (s : State) :
    frameLoop budget idle (fuel + 1) acc steps s =
      if acc < budget then
        if (nextCpuStep idle steps).1.cycles = 0 then none
        else frameLoop budget idle fuel (acc + (nextCpuStep idle steps).1.cycles) (nextCpuStep idle steps).2
          (runCpuStep (nextCpuStep idle steps).1 s)
      else some (acc, steps, s) := rfl

/-- The answers of CpuStep, one at a time. -/
@[simp] theorem nextCpuStep_nil (idle : CpuStep) : nextCpuStep idle [] = (idle, []) := rfl
@[simp] theorem nextCpuStep_cons (idle c : CpuStep) (rest : List CpuStep) :
    nextCpuStep idle (c :: rest) = (c, rest) := rfl

/-! ### Reset, the configuration and the cartridges -/

/-- CpuReset is the last part of Reset, and all it can do is what the CPU does on the bus (R322). -/
theorem doReset_eq (s : State) : doReset s = cpuReset (resetComponents s) := rfl

/-- The presence a rung gives, block by block (R267). -/
theorem ladder_toList (r : RamPreset) :
    (ladder r).toList =
      match r with
      | .unexp => [false, false, false, false, false]
      | .k3 => [true, false, false, false, false]
      | .k8 => [false, true, false, false, false]
      | .k16 => [false, true, true, false, false]
      | .k24 => [false, true, true, true, false]
      | .k27 => [true, true, true, true, false]
      | .k32 => [false, true, true, true, true]
      | .k35 => [true, true, true, true, true] := by
  cases r <;> rfl

/-- A trimmed image has a recognised length, or nothing of it is left (R271). -/
theorem trimCart_length (buf : List Byte) :
    (trimCart buf).length = 0 ∨ (trimCart buf).length = 4096 ∨ (trimCart buf).length = 8192 := by
  induction buf with
  | nil => exact .inl rfl
  | cons b rest ih =>
    simp only [trimCart]
    split
    · rename_i h
      simp only [cartSized, Bool.or_eq_true, beq_iff_eq] at h
      exact .inr h
    · exact ih

/-- The install, with what it may install (R272). -/
theorem installCart_cases (l : Addr) (image : List Byte) (rst : Bool) (s : State) :
    installCart l image rst s = s ∨
    ∃ c : Fin 4,
      installCart l image rst s =
        if rst then doReset { s with cart := s.cart.set c (some image) }
        else { s with cart := s.cart.set c (some image) } := by
  simp only [installCart]
  cases cartSlot l with
  | none => exact .inl rfl
  | some c => exact .inr ⟨c, rfl⟩

/-- What CART can install: nothing, or an image of a recognised length in one slot, with a reset or without. -/
theorem loadCart_cases (a : Addr) (rst : Bool) (buf : List Byte) (s : State) :
    loadCart a rst buf s = s ∨
    ∃ (c : Fin 4) (image : List Byte),
      (image.length = 0 ∨ image.length = 4096 ∨ image.length = 8192) ∧
      loadCart a rst buf s =
        if rst then doReset { s with cart := s.cart.set c (some image) }
        else { s with cart := s.cart.set c (some image) } := by
  unfold loadCart
  split
  · unfold autoCart
    split
    · split
      · rename_i lo hi data h
        simp only [cartSized, Bool.or_eq_true, beq_iff_eq] at h
        rcases installCart_cases (word16 hi lo) data rst s with h1 | ⟨c, h1⟩
        · exact .inl h1
        · exact .inr ⟨c, data, .inr h, h1⟩
      · exact .inl rfl
    · exact .inl rfl
  · rcases installCart_cases a (trimCart buf) rst s with h1 | ⟨c, h1⟩
    · exact .inl h1
    · exact .inr ⟨c, trimCart buf, trimCart_length buf, h1⟩

end Sys2Proof.Machine
end

