-- ==== Sys2Proof/Laws/Dispatch.lean ====
section
/-! SUPPORT. The inversion of `exec` and of `step`: every way a next state can arise, said once. -/

namespace Sys2Proof.Machine

/-- RD of a register row is a bus read of its address. -/
theorem viaRead_eq_busRead (k : ViaId) (r : Fin 16) (s : State) : viaRead k r s = busRead (viaAddr k r) s := by
  simp only [busRead, State.target, decodeAddr_viaAddr]

theorem vicRead_eq_busRead (r : Fin 16) (s : State) : (vicRead r s, s) = busRead (vicAddr r) s := by
  simp only [busRead, State.target, decodeAddr_vicAddr]

/-- WR of a register row is a bus write of its address. -/
theorem viaWrite_eq_busWrite (k : ViaId) (r : Fin 16) (d : Byte) (s : State) :
    viaWrite k r d s = busWrite (viaAddr k r) d s := by
  simp only [busWrite, State.target, decodeAddr_viaAddr]

theorem vicWrite_eq_busWrite (r : Fin 16) (d : Byte) (s : State) : vicWrite r d s = busWrite (vicAddr r) d s := by
  simp only [busWrite, State.target, decodeAddr_vicAddr]

/-- What an operation's next state can be: the result of a bus read, a bus write or a video read, or of one of the
operations of ORCH. -/
inductive Effect (s : State) : Instr → State → Prop where
  | read {i} (a : Addr) : Effect s i { (busRead a s).2 with result := .byte (busRead a s).1 }
  | write {i} (a : Addr) (v : Byte) : Effect s i (busWrite a v s)
  | video {i} (a : Addr) : Effect s i { s with result := .byte (videoRead a s) }
  | tick : Effect s .tick (Machine.tick s)
  | frame {t} (h : runFrame s = some t) : Effect s .frame t
  | reset : Effect s .reset (doReset s)
  | key (p : Bool) (r c : Fin 8) : Effect s (.key p r c) (setKey p r c s)
  | joy (p : Bool) (b : Button) : Effect s (.joy p b) (setJoy p b s)
  | line (k : ViaId) (level : Bool) (l : ControlLine) : Effect s (.line k level l) (setLine k level l s)
  | ramcfg (r : RamPreset) : Effect s (.ramcfg r) (configureRam r s)
  | cart (a : Addr) (rst : Bool) (buf : List Byte) : Effect s (.cart a rst buf) (loadCart a rst buf s)
  | prg (run : Bool) (buf : List Byte) : Effect s (.prg run buf) (loadPrg buf run s)
  | inject (buf : List Byte) : Effect s (.inject buf) (startInjection buf s)

theorem Effect.viaRead {s : State} {i : Instr} (k : ViaId) (r : Fin 16) :
    Effect s i { (viaRead k r s).2 with result := .byte (viaRead k r s).1 } := by
  rw [viaRead_eq_busRead]
  exact .read _

theorem Effect.viaWrite {s : State} {i : Instr} (k : ViaId) (r : Fin 16) (d : Byte) :
    Effect s i (viaWrite k r d s) := by
  rw [viaWrite_eq_busWrite]
  exact .write _ _

theorem Effect.vicRead {s : State} {i : Instr} (r : Fin 16) :
    Effect s i { s with result := .byte (vicRead r s) } := by
  have h := vicRead_eq_busRead r s
  have := Effect.read (s := s) (i := i) (vicAddr r)
  rwa [← h] at this

theorem Effect.vicWrite {s : State} {i : Instr} (r : Fin 16) (d : Byte) : Effect s i (vicWrite r d s) := by
  rw [vicWrite_eq_busWrite]
  exact .write _ _

/-- FRAME's next state is RunFrame's. -/
theorem execFrame_next {s t : State} (h : execFrame s = .next t) : runFrame s = some t := by
  unfold execFrame at h
  split at h
  · cases h
    assumption
  · cases h

/-- The inversion of exec: a next state is an effect of the operation. -/
theorem exec_effect {i : Instr} {s t : State} (h : exec i s = .next t) : Effect s i t := by
  cases i with
  | rdRamLo a => cases h; exact .read a
  | rdExpram0 a => cases h; exact .read a
  | rdRamMid a => cases h; exact .read a
  | rdCart0 a => cases h; exact .read a
  | rdExpram1 a => cases h; exact .read a
  | rdCart1 a => cases h; exact .read a
  | rdExpram2 a => cases h; exact .read a
  | rdCart2 a => cases h; exact .read a
  | rdExpram3 a => cases h; exact .read a
  | rdRomChar a => cases h; exact .read a
  | rdColram a => cases h; exact .read a
  | rdCart3 a => cases h; exact .read a
  | rdExpram4 a => cases h; exact .read a
  | rdRomBasic a => cases h; exact .read a
  | rdRomKernal a => cases h; exact .read a
  | rdVicReg0 => cases h; exact .vicRead 0
  | rdVicReg1 => cases h; exact .vicRead 1
  | rdVicReg2 => cases h; exact .vicRead 2
  | rdVicReg3 => cases h; exact .vicRead 3
  | rdVicReg4 => cases h; exact .vicRead 4
  | rdVicReg5 => cases h; exact .vicRead 5
  | rdVicReg6 => cases h; exact .vicRead 6
  | rdVicReg7 => cases h; exact .vicRead 7
  | rdVicReg8 => cases h; exact .vicRead 8
  | rdVicReg9 => cases h; exact .vicRead 9
  | rdVicReg10 => cases h; exact .vicRead 10
  | rdVicReg11 => cases h; exact .vicRead 11
  | rdVicReg12 => cases h; exact .vicRead 12
  | rdVicReg13 => cases h; exact .vicRead 13
  | rdVicReg14 => cases h; exact .vicRead 14
  | rdVicReg15 => cases h; exact .vicRead 15
  | rdVia1Orb => cases h; exact .viaRead .via1 0
  | rdVia1Ora => cases h; exact .viaRead .via1 1
  | rdVia1Ddrb => cases h; exact .viaRead .via1 2
  | rdVia1Ddra => cases h; exact .viaRead .via1 3
  | rdVia1T1cL => cases h; exact .viaRead .via1 4
  | rdVia1T1cH => cases h; exact .viaRead .via1 5
  | rdVia1T1lL => cases h; exact .viaRead .via1 6
  | rdVia1T1lH => cases h; exact .viaRead .via1 7
  | rdVia1T2cL => cases h; exact .viaRead .via1 8
  | rdVia1T2cH => cases h; exact .viaRead .via1 9
  | rdVia1Sr => cases h; exact .viaRead .via1 10
  | rdVia1Acr => cases h; exact .viaRead .via1 11
  | rdVia1Pcr => cases h; exact .viaRead .via1 12
  | rdVia1Ifr => cases h; exact .viaRead .via1 13
  | rdVia1Ier => cases h; exact .viaRead .via1 14
  | rdVia1OraNh => cases h; exact .viaRead .via1 15
  | rdVia2Orb => cases h; exact .viaRead .via2 0
  | rdVia2Ora => cases h; exact .viaRead .via2 1
  | rdVia2Ddrb => cases h; exact .viaRead .via2 2
  | rdVia2Ddra => cases h; exact .viaRead .via2 3
  | rdVia2T1cL => cases h; exact .viaRead .via2 4
  | rdVia2T1cH => cases h; exact .viaRead .via2 5
  | rdVia2T1lL => cases h; exact .viaRead .via2 6
  | rdVia2T1lH => cases h; exact .viaRead .via2 7
  | rdVia2T2cL => cases h; exact .viaRead .via2 8
  | rdVia2T2cH => cases h; exact .viaRead .via2 9
  | rdVia2Sr => cases h; exact .viaRead .via2 10
  | rdVia2Acr => cases h; exact .viaRead .via2 11
  | rdVia2Pcr => cases h; exact .viaRead .via2 12
  | rdVia2Ifr => cases h; exact .viaRead .via2 13
  | rdVia2Ier => cases h; exact .viaRead .via2 14
  | rdVia2OraNh => cases h; exact .viaRead .via2 15
  | rdFloat a => cases h; exact .read a
  | wrRamLo a v => cases h; exact .write a v
  | wrExpram0 a v => cases h; exact .write a v
  | wrRamMid a v => cases h; exact .write a v
  | wrCart0 a v => cases h; exact .write a v
  | wrExpram1 a v => cases h; exact .write a v
  | wrCart1 a v => cases h; exact .write a v
  | wrExpram2 a v => cases h; exact .write a v
  | wrCart2 a v => cases h; exact .write a v
  | wrExpram3 a v => cases h; exact .write a v
  | wrRomChar a v => cases h; exact .write a v
  | wrColram a v => cases h; exact .write a v
  | wrCart3 a v => cases h; exact .write a v
  | wrExpram4 a v => cases h; exact .write a v
  | wrRomBasic a v => cases h; exact .write a v
  | wrRomKernal a v => cases h; exact .write a v
  | wrVicReg0 v => cases h; exact .vicWrite 0 v
  | wrVicReg1 v => cases h; exact .vicWrite 1 v
  | wrVicReg2 v => cases h; exact .vicWrite 2 v
  | wrVicReg3 v => cases h; exact .vicWrite 3 v
  | wrVicReg4 v => cases h; exact .vicWrite 4 v
  | wrVicReg5 v => cases h; exact .vicWrite 5 v
  | wrVicReg6 v => cases h; exact .vicWrite 6 v
  | wrVicReg7 v => cases h; exact .vicWrite 7 v
  | wrVicReg8 v => cases h; exact .vicWrite 8 v
  | wrVicReg9 v => cases h; exact .vicWrite 9 v
  | wrVicReg10 v => cases h; exact .vicWrite 10 v
  | wrVicReg11 v => cases h; exact .vicWrite 11 v
  | wrVicReg12 v => cases h; exact .vicWrite 12 v
  | wrVicReg13 v => cases h; exact .vicWrite 13 v
  | wrVicReg14 v => cases h; exact .vicWrite 14 v
  | wrVicReg15 v => cases h; exact .vicWrite 15 v
  | wrVia1Orb v => cases h; exact .viaWrite .via1 0 v
  | wrVia1Ora v => cases h; exact .viaWrite .via1 1 v
  | wrVia1Ddrb v => cases h; exact .viaWrite .via1 2 v
  | wrVia1Ddra v => cases h; exact .viaWrite .via1 3 v
  | wrVia1T1cL v => cases h; exact .viaWrite .via1 4 v
  | wrVia1T1cH v => cases h; exact .viaWrite .via1 5 v
  | wrVia1T1lL v => cases h; exact .viaWrite .via1 6 v
  | wrVia1T1lH v => cases h; exact .viaWrite .via1 7 v
  | wrVia1T2cL v => cases h; exact .viaWrite .via1 8 v
  | wrVia1T2cH v => cases h; exact .viaWrite .via1 9 v
  | wrVia1Sr v => cases h; exact .viaWrite .via1 10 v
  | wrVia1Acr v => cases h; exact .viaWrite .via1 11 v
  | wrVia1Pcr v => cases h; exact .viaWrite .via1 12 v
  | wrVia1Ifr v => cases h; exact .viaWrite .via1 13 v
  | wrVia1Ier v => cases h; exact .viaWrite .via1 14 v
  | wrVia1OraNh v => cases h; exact .viaWrite .via1 15 v
  | wrVia2Orb v => cases h; exact .viaWrite .via2 0 v
  | wrVia2Ora v => cases h; exact .viaWrite .via2 1 v
  | wrVia2Ddrb v => cases h; exact .viaWrite .via2 2 v
  | wrVia2Ddra v => cases h; exact .viaWrite .via2 3 v
  | wrVia2T1cL v => cases h; exact .viaWrite .via2 4 v
  | wrVia2T1cH v => cases h; exact .viaWrite .via2 5 v
  | wrVia2T1lL v => cases h; exact .viaWrite .via2 6 v
  | wrVia2T1lH v => cases h; exact .viaWrite .via2 7 v
  | wrVia2T2cL v => cases h; exact .viaWrite .via2 8 v
  | wrVia2T2cH v => cases h; exact .viaWrite .via2 9 v
  | wrVia2Sr v => cases h; exact .viaWrite .via2 10 v
  | wrVia2Acr v => cases h; exact .viaWrite .via2 11 v
  | wrVia2Pcr v => cases h; exact .viaWrite .via2 12 v
  | wrVia2Ifr v => cases h; exact .viaWrite .via2 13 v
  | wrVia2Ier v => cases h; exact .viaWrite .via2 14 v
  | wrVia2OraNh v => cases h; exact .viaWrite .via2 15 v
  | wrFloat a v => cases h; exact .write a v
  | vrdRamLo a => cases h; exact .video a
  | vrdExpram0 a => cases h; exact .video a
  | vrdRamMid a => cases h; exact .video a
  | vrdCart0 a => cases h; exact .video a
  | vrdExpram1 a => cases h; exact .video a
  | vrdCart1 a => cases h; exact .video a
  | vrdExpram2 a => cases h; exact .video a
  | vrdCart2 a => cases h; exact .video a
  | vrdExpram3 a => cases h; exact .video a
  | vrdRomChar a => cases h; exact .video a
  | vrdColram a => cases h; exact .video a
  | vrdCart3 a => cases h; exact .video a
  | vrdExpram4 a => cases h; exact .video a
  | vrdRomBasic a => cases h; exact .video a
  | vrdRomKernal a => cases h; exact .video a
  | vrdVicWindow a => cases h; exact .video a
  | vrdViaWindows a => cases h; exact .video a
  | vrdFloat a => cases h; exact .video a
  | tick => cases h; exact .tick
  | frame => exact .frame (execFrame_next h)
  | reset => cases h; exact .reset
  | key pressed r c => cases h; exact .key pressed r c
  | joy pressed button => cases h; exact .joy pressed button
  | line via level l => cases h; exact .line via level l
  | ramcfg preset => cases h; exact .ramcfg preset
  | cart addr doReset buf => cases h; exact .cart addr doReset buf
  | prg run buf => cases h; exact .prg run buf
  | inject buf => cases h; exact .inject buf
  | reservedOpc13 _ => cases h
  | reservedOpc14to15 _ => cases h
  | reservedOpc16to31 _ => cases h

/-- The inversion of step: nothing was presented, or the oldest operation was decoded and run. -/
theorem step_effect {s t : State} (h : step s = .next t) :
    (s.queue = [] ∧ t = s) ∨
    ∃ op rest i, s.queue = op :: rest ∧ decode s.presence op = .ok i ∧ Effect { s with queue := rest } i t := by
  unfold step at h
  split at h
  · cases h
    exact .inl ⟨‹_›, rfl⟩
  · split at h
    · exact .inr ⟨_, _, _, ‹_›, ‹_›, exec_effect h⟩
    · cases h

end Sys2Proof.Machine
end

