-- ==== Sys2Proof/Laws/Ports.lean ====
section
/-! SUPPORT. The live input of the ports: what a wiring's term says in a state, and the bits of a port's live byte. -/

namespace Sys2Proof.Machine

@[simp] theorem State.liveLevel_high (s : State) : s.liveLevel .high = true := rfl
@[simp] theorem State.liveLevel_switch (s : State) (b : Button) : s.liveLevel (.switch b) = s.joy b := rfl
@[simp] theorem State.liveLevel_key (s : State) (r c : Fin 8) : s.liveLevel (.key r c) = (s.kbd[r])[c] := rfl
@[simp] theorem State.liveLevel_pin (s : State) (k : ViaId) (p : Port) (i : Fin 8) :
    s.liveLevel (.pin k p i) = (s.pinLevels k p).getLsbD i.val := rfl
@[simp] theorem State.liveLevel_not (s : State) (x : Config.LiveBit) : s.liveLevel (.not x) = !s.liveLevel x := rfl
@[simp] theorem State.liveLevel_and (s : State) (x y : Config.LiveBit) :
    s.liveLevel (.and x y) = (s.liveLevel x && s.liveLevel y) := rfl

/-- A pin of a port driven low is an output at 0. -/
theorem State.pinLevels_getLsbD_b (s : State) (k : ViaId) (i : Fin 8) :
    (s.pinLevels k .b).getLsbD i.val = ((s.via k).orb.getLsbD i.val || !(s.via k).ddrb.getLsbD i.val) := by
  simp [State.pinLevels]

theorem State.pinLevels_getLsbD_a (s : State) (k : ViaId) (i : Fin 8) :
    (s.pinLevels k .a).getLsbD i.val = ((s.via k).ora.getLsbD i.val || !(s.via k).ddra.getLsbD i.val) := by
  simp [State.pinLevels]

/-- A keyboard row is low exactly when a pressed key of the row meets a column that is low. -/
theorem State.liveLevel_keyRow (s : State) (column : Fin 8 → Config.LiveBit) (r : Fin 8) :
    s.liveLevel (Config.keyRow column r) = false ↔
      ∃ c : Fin 8, s.liveLevel (column c) = false ∧ (s.kbd[r])[c] = true := by
  have step : ∀ cs : List (Fin 8),
      s.liveLevel (cs.foldr (fun c rest => .and (.not (.and (.not (column c)) (.key r c))) rest) .high) = false ↔
        ∃ c ∈ cs, s.liveLevel (column c) = false ∧ (s.kbd[r])[c] = true := by
    intro cs
    induction cs with
    | nil => simp
    | cons c cs ih =>
      simp only [List.foldr_cons, State.liveLevel_and, State.liveLevel_not, State.liveLevel_key, Bool.and_eq_false_iff,
        ih, List.mem_cons, or_and_right, exists_or, exists_eq_left]
      cases s.liveLevel (column c) <;> cases (s.kbd[r])[c] <;> simp only [Bool.not_true, Bool.not_false, Bool.and_true,
        Bool.and_false, Bool.true_eq_false, true_or, false_or, and_self, and_false, false_and, reduceCtorEq]
  have all : ∀ c : Fin 8, c ∈ [(0 : Fin 8), 1, 2, 3, 4, 5, 6, 7] := by decide
  rw [Config.keyRow, step]
  exact ⟨fun ⟨c, _, h⟩ => ⟨c, h⟩, fun ⟨c, h⟩ => ⟨c, all c, h⟩⟩

/-- A fold that sets the bits a predicate selects sets exactly those. -/
theorem setBits_getLsbD (f : Fin 8 → Bool) (i : Fin 8) (js : List (Fin 8)) (b : Byte) :
    (js.foldl (fun live j => if f j then live ||| (1#8 <<< j.val) else live) b).getLsbD i.val =
      (b.getLsbD i.val || (decide (i ∈ js) && f i)) := by
  have bit : ∀ i j : Fin 8, (1#8 <<< j.val).getLsbD i.val = decide (i = j) := by decide
  induction js generalizing b with
  | nil => simp
  | cons j js ih =>
    rw [List.foldl_cons, ih]
    by_cases hij : i = j
    · subst hij
      cases hf : f i <;> simp only [if_true, Bool.false_eq_true, if_false, BitVec.getLsbD_or, bit, decide_true,
        List.mem_cons, true_or, Bool.or_true, Bool.true_or, Bool.and_true, Bool.and_false, Bool.or_false]
    · cases hf : f j <;> simp only [if_true, Bool.false_eq_true, if_false, BitVec.getLsbD_or, bit, hij, decide_false,
        Bool.or_false, List.mem_cons, false_or]

/-- Bit `i` of a live byte is the level of its term. -/
theorem State.liveByte_getLsbD (s : State) (bits : Vector Config.LiveBit 8) (i : Fin 8) :
    (s.liveByte bits).getLsbD i.val = s.liveLevel bits[i] := by
  have all : ∀ i : Fin 8, i ∈ [(0 : Fin 8), 1, 2, 3, 4, 5, 6, 7] := by decide
  rw [State.liveByte, setBits_getLsbD (fun j => s.liveLevel bits[j])]
  simp only [all, decide_true, Bool.true_and]
  simp

/-- The live levels depend on the switches, the matrix and the data and direction registers, nothing else. -/
theorem State.liveLevel_congr (s t : State) (hj : ∀ b, t.joy b = s.joy b) (hk : t.kbd = s.kbd)
    (hp : ∀ k p, t.pinLevels k p = s.pinLevels k p) (x : Config.LiveBit) : t.liveLevel x = s.liveLevel x := by
  induction x with
  | high => rfl
  | switch b => exact hj b
  | key r c => rw [State.liveLevel_key, State.liveLevel_key, hk]
  | pin k p i => rw [State.liveLevel_pin, State.liveLevel_pin, hp]
  | not x ih => rw [State.liveLevel_not, State.liveLevel_not, ih]
  | and x y ihx ihy => rw [State.liveLevel_and, State.liveLevel_and, ihx, ihy]

theorem portLive_congr (s t : State) (hw : t.params.wiring = s.params.wiring) (hj : ∀ b, t.joy b = s.joy b)
    (hk : t.kbd = s.kbd) (hp : ∀ k p, t.pinLevels k p = s.pinLevels k p) (k : ViaId) (p : Port) :
    portLive t k p = portLive s k p := by
  simp only [portLive, State.liveByte, hw, State.liveLevel_congr s t hj hk hp]

/-- The flags of a core do not reach the live values. -/
@[simp] theorem portLive_setVia_ifr (s : State) (k q : ViaId) (p : Port) (f : BitVec 7) :
    portLive (s.setVia k { s.via k with ifr := f }) q p = portLive s q p := by
  refine portLive_congr s _ (by simp) (fun b => ?_) (by simp) (fun j r => ?_) q p
  · cases b <;> simp [State.joy]
  · cases k <;> cases j <;> cases r <;> rfl

/-- What a read of ORB can do: two flags, the merged register and the recorded question (R152, R182). -/
theorem viaReadOrb_eq (k : ViaId) (s : State) :
    viaReadOrb k s =
      let v := s.via k
      let orb := mergeInput v.orb v.ddrb (portLive s k .b)
      (orb, (s.setVia k { v with orb := orb, ifr := clearFlags v.ifr (flagCb1 ||| flagCb2) }).emit
        (.portIn k .b (portLive s k .b))) := by
  simp only [viaReadOrb, portInMerge, clearViaFlags, portLive_setVia_ifr]
  cases k <;> rfl

/-- What a read of ORA can do (R153, R182). -/
theorem viaReadOra_eq (k : ViaId) (s : State) :
    viaReadOra k s =
      let v := s.via k
      let ora := mergeInput v.ora v.ddra (portLive s k .a)
      (ora, (s.setVia k { v with ora := ora, ifr := clearFlags v.ifr (flagCa1 ||| flagCa2) }).emit
        (.portIn k .a (portLive s k .a))) := by
  simp only [viaReadOra, portInMerge, clearViaFlags, portLive_setVia_ifr]
  cases k <;> rfl

end Sys2Proof.Machine
end

