-- ==== Sys2Proof/Machine/Asm.lean ====
section
/-! DEFINITION. The notation of R98 as a printer: one line per operation. The reserved words have no notation. -/

namespace Sys2Proof.Machine

/-- A hexadecimal digit. -/
def hexDigit (n : Nat) : String :=
  (["0", "1", "2", "3", "4", "5", "6", "7", "8", "9", "A", "B", "C", "D", "E", "F"]).getD (n % 16) "0"

/-- `$xx` (R98). -/
def hexByte (v : Byte) : String := "$" ++ hexDigit (v.toNat / 16) ++ hexDigit v.toNat

/-- `$xxxx` (R98). -/
def hexAddr (a : Addr) : String :=
  "$" ++ hexDigit (a.toNat / 4096) ++ hexDigit (a.toNat / 256) ++ hexDigit (a.toNat / 16) ++ hexDigit a.toNat

/-- A flag operand. -/
def bitText (b : Bool) : String := if b then "1" else "0"

/-- The double quote. -/
def quoteText : String := String.singleton (Char.ofNat 34)

/-- A buffer, which R98 leaves as `<buffer>`, shown as its bytes. -/
def bufferText (buf : List Byte) : String := "<" ++ String.intercalate " " (buf.map hexByte) ++ ">"

/-- INJECT's text, one character per byte. -/
def injectText (buf : List Byte) : String :=
  quoteText ++ String.ofList (buf.map fun b => Char.ofNat b.toNat) ++ quoteText

/-- JOY's button names (R98). -/
def buttonText (b : Button) : String :=
  match b with
  | .up => "up"
  | .down => "down"
  | .left => "left"
  | .right => "right"
  | .fire => "fire"

/-- LINE's line names (R98). -/
def lineText (k : ViaId) (l : ControlLine) : String :=
  (match k with | .via1 => "via1." | .via2 => "via2.") ++
  (match l with | .ca1 => "ca1" | .ca2 => "ca2" | .cb1 => "cb1" | .cb2 => "cb2")

/-- RAMCFG's preset names (R98). -/
def presetText (r : RamPreset) : String :=
  match r with
  | .unexp => "unexp"
  | .k3 => "3K"
  | .k8 => "8K"
  | .k16 => "16K"
  | .k24 => "24K"
  | .k27 => "27K"
  | .k32 => "32K"
  | .k35 => "35K"

/-- A bus operation by its word: RD, WR or VRD of the ADDR field. -/
def busText (w : OpWord) : Option String :=
  match (fieldOpc w).toNat with
  | 0 => some ("RD " ++ hexAddr (fieldAddr w))
  | 1 => some ("WR " ++ hexAddr (fieldAddr w) ++ ", #" ++ hexByte (fieldData w))
  | 2 => some ("VRD " ++ hexAddr (fieldAddr w))
  | _ => none

/-- The assembler line of an operation (R98). -/
def asm (i : Instr) : Option String :=
  match i with
  | .tick => some "TICK"
  | .frame => some "FRAME"
  | .reset => some "RESET"
  | .key p r c => some ("KEY " ++ toString r.val ++ ", " ++ toString c.val ++ ", " ++ bitText p)
  | .joy p b => some ("JOY " ++ buttonText b ++ ", " ++ bitText p)
  | .line k level l => some ("LINE " ++ lineText k l ++ ", " ++ bitText level)
  | .ramcfg r => some ("RAMCFG " ++ presetText r)
  | .cart a rst buf =>
    some ("CART " ++ (if a = 0 then "auto" else hexAddr a) ++ ", " ++ (if rst then "reset" else "noreset") ++
      ", " ++ bufferText buf)
  | .prg run buf => some ("PRG " ++ (if run then "run" else "norun") ++ ", " ++ bufferText buf)
  | .inject buf => some ("INJECT " ++ injectText buf)
  | other => busText (encodeWord other)

end Sys2Proof.Machine
end

