-- ==== Sys2Proof/Tests/Slice0.lean ====
section
/-! SUPPORT. The writer's own tests: ill-formed operations refused, every constructor's word decoded, one-step tests
from the worked examples of spec/95_test_vectors.md (named by their number there), and a witness for the hypotheses of
every statement that has some. -/

namespace Sys2Proof.Tests

open Sys2Proof Sys2Proof.Machine

/-- A word presented without a buffer. -/
def op (w : OpWord) : Op := { word := w, buf := [] }

/-- Every expansion block present, no cartridge. -/
def allRam : Presence := { exp := Vector.replicate 5 true, cart := Vector.replicate 4 none }

/-- A full image in every slot, no expansion block. -/
def allCarts : Presence := { exp := Vector.replicate 5 false, cart := Vector.replicate 4 (some 8192) }

/-- Power-on. -/
def s0 : State := State.reset

/-- Power-on with another VIA1. -/
def withVia1 (v : Via) : State := { s0 with via1 := v }

/-- Power-on with another VIA2. -/
def withVia2 (v : Via) : State := { s0 with via2 := v }

/-- Power-on with video registers written. -/
def withRegs (f : Vector Byte 16 → Vector Byte 16) : State := { s0 with vic := { s0.vic with regs := f s0.vic.regs } }

/-- The next state of an operation, if it has one. -/
def after (i : Instr) (s : State) : Option State :=
  match exec i s with
  | .next t => some t
  | _ => none

/-- The result of an operation. -/
def resultOf (i : Instr) (s : State) : Option OpResult := (after i s).map State.result

/-! ### Well-formedness -/

/-- Each range check of the RD rows refuses the addresses next to its range (R61, R62). -/
theorem test_wf_refuses_rd :
    ∀ i ∈ ([
      .rdRamLo 0x0400, .rdExpram0 0x03FF, .rdExpram0 0x1000, .rdRamMid 0x0FFF, .rdRamMid 0x2000,
      .rdCart0 0x1FFF, .rdCart0 0x4000, .rdExpram1 0x1FFF, .rdExpram1 0x4000, .rdCart1 0x3FFF, .rdCart1 0x6000,
      .rdExpram2 0x3FFF, .rdExpram2 0x6000, .rdCart2 0x5FFF, .rdCart2 0x8000, .rdExpram3 0x5FFF,
      .rdExpram3 0x8000, .rdRomChar 0x7FFF, .rdRomChar 0x9000, .rdColram 0x93FF, .rdColram 0x9800,
      .rdCart3 0x9FFF, .rdCart3 0xC000, .rdExpram4 0x9FFF, .rdExpram4 0xC000, .rdRomBasic 0xBFFF,
      .rdRomBasic 0xE000, .rdRomKernal 0xDFFF, .rdFloat 0x03FF, .rdFloat 0x1000, .rdFloat 0x8000,
      .rdFloat 0x900F, .rdFloat 0x9110, .rdFloat 0x912F, .rdFloat 0x9400, .rdFloat 0x97FF, .rdFloat 0xC000,
      .rdFloat 0xFFFF
    ] : List Instr), i.wf = false := by
  decide

/-- Each range check of the WR rows refuses the addresses next to its range (R61, R62). -/
theorem test_wf_refuses_wr :
    ∀ i ∈ ([
      .wrRamLo 0x0400 0, .wrExpram0 0x03FF 0, .wrExpram0 0x1000 0, .wrRamMid 0x0FFF 0, .wrRamMid 0x2000 0,
      .wrCart0 0x1FFF 0, .wrCart0 0x4000 0, .wrExpram1 0x1FFF 0, .wrExpram1 0x4000 0, .wrCart1 0x3FFF 0,
      .wrCart1 0x6000 0, .wrExpram2 0x3FFF 0, .wrExpram2 0x6000 0, .wrCart2 0x5FFF 0, .wrCart2 0x8000 0,
      .wrExpram3 0x5FFF 0, .wrExpram3 0x8000 0, .wrRomChar 0x7FFF 0, .wrRomChar 0x9000 0, .wrColram 0x93FF 0,
      .wrColram 0x9800 0, .wrCart3 0x9FFF 0, .wrCart3 0xC000 0, .wrExpram4 0x9FFF 0, .wrExpram4 0xC000 0,
      .wrRomBasic 0xBFFF 0, .wrRomBasic 0xE000 0, .wrRomKernal 0xDFFF 0, .wrFloat 0x03FF 0, .wrFloat 0x1000 0,
      .wrFloat 0x8000 0, .wrFloat 0x900F 0, .wrFloat 0x9110 0, .wrFloat 0x912F 0, .wrFloat 0x9400 0,
      .wrFloat 0x97FF 0, .wrFloat 0xC000 0, .wrFloat 0xFFFF 0
    ] : List Instr), i.wf = false := by
  decide

/-- Each range check of the VRD rows refuses the addresses next to its range (R61, R62). -/
theorem test_wf_refuses_vrd :
    ∀ i ∈ ([
      .vrdRamLo 0x0400, .vrdExpram0 0x03FF, .vrdExpram0 0x1000, .vrdRamMid 0x0FFF, .vrdRamMid 0x2000,
      .vrdCart0 0x1FFF, .vrdCart0 0x4000, .vrdExpram1 0x1FFF, .vrdExpram1 0x4000, .vrdCart1 0x3FFF,
      .vrdCart1 0x6000, .vrdExpram2 0x3FFF, .vrdExpram2 0x6000, .vrdCart2 0x5FFF, .vrdCart2 0x8000,
      .vrdExpram3 0x5FFF, .vrdExpram3 0x8000, .vrdRomChar 0x7FFF, .vrdRomChar 0x9000, .vrdColram 0x93FF,
      .vrdColram 0x9800, .vrdCart3 0x9FFF, .vrdCart3 0xC000, .vrdExpram4 0x9FFF, .vrdExpram4 0xC000,
      .vrdRomBasic 0xBFFF, .vrdRomBasic 0xE000, .vrdRomKernal 0xDFFF, .vrdVicWindow 0x8FFF,
      .vrdVicWindow 0x9010, .vrdViaWindows 0x910F, .vrdViaWindows 0x9130, .vrdFloat 0x03FF, .vrdFloat 0x1000,
      .vrdFloat 0x8000, .vrdFloat 0x900F, .vrdFloat 0x9110, .vrdFloat 0x912F, .vrdFloat 0x9400,
      .vrdFloat 0x97FF, .vrdFloat 0xC000, .vrdFloat 0xFFFF
    ] : List Instr), i.wf = false := by
  decide

/-! ### Decoding -/

/-- The RD rows: store targets (R61, R90, R91). -/
theorem test_decode_rd_store :
    ∀ x ∈ ([
      (0x0003FF00, .rdRamLo 0x03FF),
      (0x001E5A00, .rdRamMid 0x1E5A),
      (0x008FA500, .rdRomChar 0x8FA5),
      (0x0097C300, .rdColram 0x97C3),
      (0x00DEAD00, .rdRomBasic 0xDEAD),
      (0x00FFFC00, .rdRomKernal 0xFFFC),
      (0x009ABC00, .rdFloat 0x9ABC)
    ] : List (OpWord × Instr)), decode Presence.empty (op x.1) = .ok x.2 := by
  decide

/-- The RD rows: expansion targets (R61, R90, R91). -/
theorem test_decode_rd_expansion :
    ∀ x ∈ ([
      (0x000FA500, .rdExpram0 0x0FA5),
      (0x002C3100, .rdExpram1 0x2C31),
      (0x004C3100, .rdExpram2 0x4C31),
      (0x006C3100, .rdExpram3 0x6C31),
      (0x00AC3100, .rdExpram4 0xAC31)
    ] : List (OpWord × Instr)), decode allRam (op x.1) = .ok x.2 := by
  decide

/-- The RD rows: cartridge targets (R61, R90, R91). -/
theorem test_decode_rd_cartridge :
    ∀ x ∈ ([
      (0x003FFE00, .rdCart0 0x3FFE),
      (0x005FFE00, .rdCart1 0x5FFE),
      (0x007FFE00, .rdCart2 0x7FFE),
      (0x00BFFE00, .rdCart3 0xBFFE)
    ] : List (OpWord × Instr)), decode allCarts (op x.1) = .ok x.2 := by
  decide

/-- The RD rows of VIC, from the table's match and mask. -/
theorem test_decode_rd_vic :
    ∀ x ∈ ([
      (0x00900000, .rdVicReg0),
      (0x00900100, .rdVicReg1),
      (0x00900200, .rdVicReg2),
      (0x00900300, .rdVicReg3),
      (0x00900400, .rdVicReg4),
      (0x00900500, .rdVicReg5),
      (0x00900600, .rdVicReg6),
      (0x00900700, .rdVicReg7),
      (0x00900800, .rdVicReg8),
      (0x00900900, .rdVicReg9),
      (0x00900A00, .rdVicReg10),
      (0x00900B00, .rdVicReg11),
      (0x00900C00, .rdVicReg12),
      (0x00900D00, .rdVicReg13),
      (0x00900E00, .rdVicReg14),
      (0x00900F00, .rdVicReg15)
    ] : List (OpWord × Instr)), decode Presence.empty (op x.1) = .ok x.2 := by
  decide

/-- The RD rows of VIA1, from the table's match and mask. -/
theorem test_decode_rd_via1 :
    ∀ x ∈ ([
      (0x00911000, .rdVia1Orb),
      (0x00911100, .rdVia1Ora),
      (0x00911200, .rdVia1Ddrb),
      (0x00911300, .rdVia1Ddra),
      (0x00911400, .rdVia1T1cL),
      (0x00911500, .rdVia1T1cH),
      (0x00911600, .rdVia1T1lL),
      (0x00911700, .rdVia1T1lH),
      (0x00911800, .rdVia1T2cL),
      (0x00911900, .rdVia1T2cH),
      (0x00911A00, .rdVia1Sr),
      (0x00911B00, .rdVia1Acr),
      (0x00911C00, .rdVia1Pcr),
      (0x00911D00, .rdVia1Ifr),
      (0x00911E00, .rdVia1Ier),
      (0x00911F00, .rdVia1OraNh)
    ] : List (OpWord × Instr)), decode Presence.empty (op x.1) = .ok x.2 := by
  decide

/-- The RD rows of VIA2, from the table's match and mask. -/
theorem test_decode_rd_via2 :
    ∀ x ∈ ([
      (0x00912000, .rdVia2Orb),
      (0x00912100, .rdVia2Ora),
      (0x00912200, .rdVia2Ddrb),
      (0x00912300, .rdVia2Ddra),
      (0x00912400, .rdVia2T1cL),
      (0x00912500, .rdVia2T1cH),
      (0x00912600, .rdVia2T1lL),
      (0x00912700, .rdVia2T1lH),
      (0x00912800, .rdVia2T2cL),
      (0x00912900, .rdVia2T2cH),
      (0x00912A00, .rdVia2Sr),
      (0x00912B00, .rdVia2Acr),
      (0x00912C00, .rdVia2Pcr),
      (0x00912D00, .rdVia2Ifr),
      (0x00912E00, .rdVia2Ier),
      (0x00912F00, .rdVia2OraNh)
    ] : List (OpWord × Instr)), decode Presence.empty (op x.1) = .ok x.2 := by
  decide

/-- The WR rows: store targets (R61, R90, R91). -/
theorem test_decode_wr_store :
    ∀ x ∈ ([
      (0x0803FF96, .wrRamLo 0x03FF 0x96),
      (0x081E5A96, .wrRamMid 0x1E5A 0x96),
      (0x088FA596, .wrRomChar 0x8FA5 0x96),
      (0x0897C396, .wrColram 0x97C3 0x96),
      (0x08DEAD96, .wrRomBasic 0xDEAD 0x96),
      (0x08FFFC96, .wrRomKernal 0xFFFC 0x96),
      (0x089ABC96, .wrFloat 0x9ABC 0x96)
    ] : List (OpWord × Instr)), decode Presence.empty (op x.1) = .ok x.2 := by
  decide

/-- The WR rows: expansion targets (R61, R90, R91). -/
theorem test_decode_wr_expansion :
    ∀ x ∈ ([
      (0x080FA596, .wrExpram0 0x0FA5 0x96),
      (0x082C3196, .wrExpram1 0x2C31 0x96),
      (0x084C3196, .wrExpram2 0x4C31 0x96),
      (0x086C3196, .wrExpram3 0x6C31 0x96),
      (0x08AC3196, .wrExpram4 0xAC31 0x96)
    ] : List (OpWord × Instr)), decode allRam (op x.1) = .ok x.2 := by
  decide

/-- The WR rows: cartridge targets (R61, R90, R91). -/
theorem test_decode_wr_cartridge :
    ∀ x ∈ ([
      (0x083FFE96, .wrCart0 0x3FFE 0x96),
      (0x085FFE96, .wrCart1 0x5FFE 0x96),
      (0x087FFE96, .wrCart2 0x7FFE 0x96),
      (0x08BFFE96, .wrCart3 0xBFFE 0x96)
    ] : List (OpWord × Instr)), decode allCarts (op x.1) = .ok x.2 := by
  decide

/-- The WR rows of VIC, from the table's match and mask. -/
theorem test_decode_wr_vic :
    ∀ x ∈ ([
      (0x08900096, .wrVicReg0 0x96),
      (0x08900196, .wrVicReg1 0x96),
      (0x08900296, .wrVicReg2 0x96),
      (0x08900396, .wrVicReg3 0x96),
      (0x08900496, .wrVicReg4 0x96),
      (0x08900596, .wrVicReg5 0x96),
      (0x08900696, .wrVicReg6 0x96),
      (0x08900796, .wrVicReg7 0x96),
      (0x08900896, .wrVicReg8 0x96),
      (0x08900996, .wrVicReg9 0x96),
      (0x08900A96, .wrVicReg10 0x96),
      (0x08900B96, .wrVicReg11 0x96),
      (0x08900C96, .wrVicReg12 0x96),
      (0x08900D96, .wrVicReg13 0x96),
      (0x08900E96, .wrVicReg14 0x96),
      (0x08900F96, .wrVicReg15 0x96)
    ] : List (OpWord × Instr)), decode Presence.empty (op x.1) = .ok x.2 := by
  decide

/-- The WR rows of VIA1, from the table's match and mask. -/
theorem test_decode_wr_via1 :
    ∀ x ∈ ([
      (0x08911096, .wrVia1Orb 0x96),
      (0x08911196, .wrVia1Ora 0x96),
      (0x08911296, .wrVia1Ddrb 0x96),
      (0x08911396, .wrVia1Ddra 0x96),
      (0x08911496, .wrVia1T1cL 0x96),
      (0x08911596, .wrVia1T1cH 0x96),
      (0x08911696, .wrVia1T1lL 0x96),
      (0x08911796, .wrVia1T1lH 0x96),
      (0x08911896, .wrVia1T2cL 0x96),
      (0x08911996, .wrVia1T2cH 0x96),
      (0x08911A96, .wrVia1Sr 0x96),
      (0x08911B96, .wrVia1Acr 0x96),
      (0x08911C96, .wrVia1Pcr 0x96),
      (0x08911D96, .wrVia1Ifr 0x96),
      (0x08911E96, .wrVia1Ier 0x96),
      (0x08911F96, .wrVia1OraNh 0x96)
    ] : List (OpWord × Instr)), decode Presence.empty (op x.1) = .ok x.2 := by
  decide

/-- The WR rows of VIA2, from the table's match and mask. -/
theorem test_decode_wr_via2 :
    ∀ x ∈ ([
      (0x08912096, .wrVia2Orb 0x96),
      (0x08912196, .wrVia2Ora 0x96),
      (0x08912296, .wrVia2Ddrb 0x96),
      (0x08912396, .wrVia2Ddra 0x96),
      (0x08912496, .wrVia2T1cL 0x96),
      (0x08912596, .wrVia2T1cH 0x96),
      (0x08912696, .wrVia2T1lL 0x96),
      (0x08912796, .wrVia2T1lH 0x96),
      (0x08912896, .wrVia2T2cL 0x96),
      (0x08912996, .wrVia2T2cH 0x96),
      (0x08912A96, .wrVia2Sr 0x96),
      (0x08912B96, .wrVia2Acr 0x96),
      (0x08912C96, .wrVia2Pcr 0x96),
      (0x08912D96, .wrVia2Ifr 0x96),
      (0x08912E96, .wrVia2Ier 0x96),
      (0x08912F96, .wrVia2OraNh 0x96)
    ] : List (OpWord × Instr)), decode Presence.empty (op x.1) = .ok x.2 := by
  decide

/-- The VRD rows: store targets (R61, R90, R91). -/
theorem test_decode_vrd_store :
    ∀ x ∈ ([
      (0x1003FF00, .vrdRamLo 0x03FF),
      (0x101E5A00, .vrdRamMid 0x1E5A),
      (0x108FA500, .vrdRomChar 0x8FA5),
      (0x1097C300, .vrdColram 0x97C3),
      (0x10DEAD00, .vrdRomBasic 0xDEAD),
      (0x10FFFC00, .vrdRomKernal 0xFFFC),
      (0x10900400, .vrdVicWindow 0x9004),
      (0x10912D00, .vrdViaWindows 0x912D),
      (0x109ABC00, .vrdFloat 0x9ABC)
    ] : List (OpWord × Instr)), decode Presence.empty (op x.1) = .ok x.2 := by
  decide

/-- The VRD rows: expansion targets (R61, R90, R91). -/
theorem test_decode_vrd_expansion :
    ∀ x ∈ ([
      (0x100FA500, .vrdExpram0 0x0FA5),
      (0x102C3100, .vrdExpram1 0x2C31),
      (0x104C3100, .vrdExpram2 0x4C31),
      (0x106C3100, .vrdExpram3 0x6C31),
      (0x10AC3100, .vrdExpram4 0xAC31)
    ] : List (OpWord × Instr)), decode allRam (op x.1) = .ok x.2 := by
  decide

/-- The VRD rows: cartridge targets (R61, R90, R91). -/
theorem test_decode_vrd_cartridge :
    ∀ x ∈ ([
      (0x103FFE00, .vrdCart0 0x3FFE),
      (0x105FFE00, .vrdCart1 0x5FFE),
      (0x107FFE00, .vrdCart2 0x7FFE),
      (0x10BFFE00, .vrdCart3 0xBFFE)
    ] : List (OpWord × Instr)), decode allCarts (op x.1) = .ok x.2 := by
  decide

/-- The non-bus rows (R91, R92; the words of P1 to P6 among them). -/
theorem test_decode_host :
    ∀ x ∈ ([
      (0x18000000, .tick),
      (0x20000000, .frame),
      (0x28000000, .reset),
      (0x30000118, .key true 3 0),
      (0x3000000F, .key false 1 7),
      (0x38000101, .joy true .down),
      (0x38000004, .joy false .fire),
      (0x40000100, .line .via1 true .ca1),
      (0x40010003, .line .via2 false .cb2),
      (0x48000006, .ramcfg .k32),
      (0x50A00001, .cart 0xA000 true []),
      (0x58000001, .prg true []),
      (0x60000000, .inject [])
    ] : List (OpWord × Instr)), decode Presence.empty (op x.1) = .ok x.2 := by
  decide

/-- The reserved selectors are their rows, whatever the other bits (R95). -/
theorem test_decode_reserved_rows :
    decode Presence.empty (op 0x68000000) = .ok (.reservedOpc13 0x0000000) ∧
      decode Presence.empty (op 0x6F123456) = .ok (.reservedOpc13 0x7123456) ∧
      decode Presence.empty (op 0x70000001) = .ok (.reservedOpc14to15 0x0000001) ∧
      decode Presence.empty (op 0x7FFFFFFF) = .ok (.reservedOpc14to15 0xFFFFFFF) ∧
      decode Presence.empty (op 0x80000000) = .ok (.reservedOpc16to31 0x00000000) ∧
      decode Presence.empty (op 0xFFFFFFFF) = .ok (.reservedOpc16to31 0x7FFFFFFF) := by
  decide

/-- Reserved words inside the modelled selectors (R95). -/
theorem test_decode_refuses_reserved :
    decode Presence.empty (op 0x01912D00) = .error .reservedRsv ∧
      decode Presence.empty (op 0x1C000000) = .error .reservedRsv ∧
      decode Presence.empty (op 0x38000005) = .error .reservedButton ∧
      decode Presence.empty (op 0x38000107) = .error .reservedButton ∧
      decode Presence.empty (op 0x18000001) = .error .strayBits ∧
      decode Presence.empty (op 0x30000200) = .error .strayBits ∧
      decode Presence.empty (op 0x40000004) = .error .strayBits ∧
      decode Presence.empty (op 0x48000008) = .error .strayBits ∧
      decode Presence.empty (op 0x50A00002) = .error .strayBits ∧
      decode Presence.empty (op 0x58000100) = .error .strayBits ∧
      decode Presence.empty (op 0x60000001) = .error .strayBits := by
  decide

/-- The DATA byte of RD and VRD names nothing (R91, log 9). -/
theorem test_decode_ignores_read_data :
    decode Presence.empty (op 0x00912DFF) = .ok .rdVia2Ifr ∧
      decode Presence.empty (op 0x109004AA) = .ok (.vrdVicWindow 0x9004) := by
  decide

/-- A cartridge shadows its region: past its end the bus floats, though RAM lies behind (R126, D9; B5). -/
theorem test_decode_past_a_cartridge :
    decode { exp := Vector.replicate 5 true, cart := #v[some 4096, none, none, none] } (op 0x002FFF00) =
        .ok (.rdCart0 0x2FFF) ∧
      decode { exp := Vector.replicate 5 true, cart := #v[some 4096, none, none, none] } (op 0x00300000) =
        .ok (.rdFloat 0x3000) := by
  decide

/-- The expansions of R99. -/
theorem test_pseudo_expansions :
    (Pseudo.tickN 2).expand = [op 0x18000000, op 0x18000000] ∧
      (Pseudo.wr16 0x9114 0x1234).expand = [op 0x08911434, op 0x08911512] ∧
      (Pseudo.step 1 [.write 0x911E 0xC0, .read 0x911D]).expand =
        [op 0x08911EC0, op 0x00911D00, op 0x18000000] := by
  decide

/-- The notation of R98. -/
theorem test_notation :
    asm .rdVia2Ifr = some "RD $912D" ∧ asm (.wrVia2Ier 0xC0) = some "WR $912E, #$C0" ∧
      asm (.vrdVicWindow 0x9004) = some "VRD $9004" ∧ asm (.key true 3 0) = some "KEY 3, 0, 1" ∧
      asm (.joy true .up) = some "JOY up, 1" ∧ asm (.line .via1 true .ca1) = some "LINE via1.ca1, 1" ∧
      asm (.ramcfg .k16) = some "RAMCFG 16K" ∧ asm (.reservedOpc13 0) = none := by
  decide +kernel

/-! ### One step -/

/-- Nothing presented: nothing happens (log 1). -/
theorem test_idle_step : step s0 = .next s0 := rfl

/-- A presented word is run and removed (P1, word 3). -/
theorem test_step_runs_the_word : step (s0.withFetchWord 32 0x08912EC0) = .next (withVia2 { Via.reset with ier := 0x40 }) := rfl

/-- A reserved word is refused by name (R95). -/
theorem test_step_refuses_reserved :
    step (s0.withFetchWord 32 0x38000007) = .refused (.reservedWord .reservedButton) ∧
      step (s0.withFetchWord 32 0x68000000) = .refused .reservedOpc := ⟨rfl, rfl⟩

/-- E1, B1, B4, B12: what was written is read. -/
theorem test_ram_write :
    ((after (.wrRamLo 0x03FF 0x3C) s0).map State.ram) = some [(0x03FF, 0x3C)] ∧
      ((after (.wrRamMid 0x1FFF 0x01) s0).map State.ram) = some [(0x1FFF, 0x01)] ∧
      ((after (.wrColram 0x97FF 0xAB) { s0 with ram := [(0x0010, 0xA5)] }).map State.ram) =
        some [(0x0010, 0xA5), (0x97FF, 0xAB)] := by
  decide

theorem test_ram_read :
    resultOf (.rdRamLo 0x03FF) { s0 with ram := [(0x03FF, 0x3C)] } = some (.byte 0x3C) ∧
      resultOf (.rdRamMid 0x1FFF) { s0 with ram := [(0x1FFF, 0x01)] } = some (.byte 0x01) ∧
      resultOf (.rdColram 0x97FF) { s0 with ram := [(0x97FF, 0xAB)] } = some (.byte 0xAB) ∧
      resultOf (.rdRamLo 0x0010) s0 = some (.byte 0x00) := by
  decide

/-- Writing RAM_INIT removes the cell (log 3). -/
theorem test_ram_canonical :
    ((after (.wrRamLo 0x0010 0x00) { s0 with ram := [(0x0010, 0xA5)] }).map State.ram) = some [] := by decide

/-- B3, B14: present expansion RAM. -/
theorem test_expansion_ram :
    ((after (.wrExpram0 0x0400 0x9E) { s0 with expram := Vector.replicate 5 true }).map State.ram) =
        some [(0x0400, 0x9E)] ∧
      resultOf (.rdExpram4 0xBFFF) { s0 with expram := Vector.replicate 5 true, ram := [(0xBFFF, 0x42)] } =
        some (.byte 0x42) ∧
      resultOf (.vrdExpram1 0x2000) { s0 with expram := Vector.replicate 5 true, ram := [(0x2000, 0x11)] } =
        some (.byte 0x11) := by
  decide

/-- B5, B6 with a shorter image: the image, its end, and the shadow over the RAM behind. -/
theorem test_cartridge :
    let s : State := { s0 with expram := Vector.replicate 5 true, cart := #v[some [0x11, 0x22, 0x33], none, none, none] }
    resultOf (.rdCart0 0x2002) s = some (.byte 0x33) ∧ resultOf (.rdFloat 0x3000) s = some (.byte 0x30) ∧
      resultOf (.vrdCart0 0x2000) s = some (.byte 0x11) ∧ ((after (.wrCart0 0x2000 0xFF) s).map State.ram) = some [] ∧
      ((after (.wrFloat 0x3000 0x55) s).map State.ram) = some [] := by
  decide

/-- E2, B9, B13: the floating bus, and the register windows as the video engine sees them (B16, B17). -/
theorem test_floating_bus :
    resultOf (.rdFloat 0x9ABC) s0 = some (.byte 0x9A) ∧ resultOf (.rdFloat 0x9130) s0 = some (.byte 0x91) ∧
      resultOf (.rdFloat 0x0FFF) s0 = some (.byte 0x0F) ∧ resultOf (.vrdVicWindow 0x9004) s0 = some (.byte 0x90) ∧
      resultOf (.vrdViaWindows 0x9114) (withVia1 { Via.reset with ifr := 0x40 }) = some (.byte 0x91) ∧
      ((after (.vrdViaWindows 0x9114) (withVia1 { Via.reset with ifr := 0x40 })).map fun t => t.via1.ifr) =
        some 0x40 := by
  decide

/-- B7, B15: ROM is read from its parameter and writes to it are discarded. -/
theorem test_rom :
    exec (.rdRomKernal 0xFFFC) s0 = .next { s0 with result := .byte (Config.romKernal 0x1FFC) } ∧
      exec (.rdRomChar 0x8000) s0 = .next { s0 with result := .byte (Config.romChar 0x000) } ∧
      exec (.vrdRomBasic 0xC001) s0 = .next { s0 with result := .byte (Config.romBasic 0x0001) } ∧
      exec (.wrRomChar 0x8000 0x00) s0 = .next s0 := ⟨rfl, rfl, rfl, rfl⟩

/-- V4, V5: the raster read-back. -/
theorem test_video_raster_reads :
    let s : State := { s0 with vic := { regs := s0.vic.regs.set 3 0x2E, hpos := 0, vpos := 257 } }
    resultOf .rdVicReg3 s = some (.byte 0xAE) ∧ resultOf .rdVicReg4 s = some (.byte 0x80) ∧
      resultOf .rdVicReg4 (withRegs fun r => r.set 4 0x55) = some (.byte 0x00) := by
  decide

/-- B8, V6: the other registers read what was written. -/
theorem test_video_registers :
    resultOf .rdVicReg15 (withRegs fun r => r.set 15 0x08) = some (.byte 0x08) ∧
      resultOf .rdVicReg10 (withRegs fun r => r.set 10 0x80) = some (.byte 0x80) ∧
      ((after (.wrVicReg9 0x7E) s0).map fun t => t.vic.regs.toList) =
        some [0, 0, 0, 0, 0, 0, 0, 0, 0, 0x7E, 0, 0, 0, 0, 0, 0] := by
  decide

/-- V7 to V9, V14, V15: the derived geometry. -/
theorem test_video_geometry :
    let s := withRegs fun r => (r.set 2 0x96).set 5 0xF0
    let t := withRegs fun r => ((r.set 2 0x16).set 5 0xC2).set 15 0x1B
    cols s = 22 ∧ colorBase s = 0x9600 ∧ screenBase s = 0x1E00 ∧ charBase s = 0x8000 ∧
      screenVa t = 0x3000 ∧ screenBase t = 0x1000 ∧ charVa t = 0x0800 ∧ charBase t = 0x8800 ∧
      backgroundColor t = 1 ∧ inverted t = false ∧ borderColor t = 3 ∧
      inverted (withRegs fun r => r.set 15 0x13) = true := by
  decide

/-- V10 to V12: character addresses with their folds. -/
theorem test_glyph_addresses :
    glyphAddr 0x80 0 (withRegs fun r => r.set 5 0x07) = 0x0000 ∧
      glyphAddr 0x80 3 (withRegs fun r => r.set 5 0x0F) = 0x8003 ∧
      glyphAddr 0x01 15 (withRegs fun r => (r.set 5 0x0C).set 3 0x01) = 0x101F := by
  decide

/-- V17 to V20: the eight pixels of a cell. -/
theorem test_cell_colours :
    let s := withRegs fun r => (r.set 15 0x1B).set 14 0x90
    let t := withRegs fun r => (r.set 15 0x13).set 14 0x90
    ((List.range 8).map fun b => hiresColor 0x80 0x6 b s) = [6, 1, 1, 1, 1, 1, 1, 1] ∧
      ((List.range 8).map fun b => hiresColor 0x80 0x6 b t) = [1, 6, 6, 6, 6, 6, 6, 6] ∧
      ((List.range 8).map fun b => multiColor 0x1B 0xA b s) = [1, 1, 3, 3, 2, 2, 9, 9] ∧
      ((List.range 8).map fun b => multiColor 0x1B 0xA b t) = [1, 1, 3, 3, 2, 2, 9, 9] := by
  decide

/-- P3, op 9: tick 1 renders the group (4..7, 0) of cell 0. -/
theorem test_tick_renders_a_group :
    let s : State := { withRegs (fun r => (((r.set 2 0x01).set 3 0x02).set 5 0xFC).set 15 0x1B) with
      ram := [(0x1008, 0x08), (0x1C00, 0x01), (0x9400, 0x06)] }
    ((after .tick s).map State.history) =
      some [.pixel 4 0 6, .pixel 5 0 1, .pixel 6 0 1, .pixel 7 0 1] := by
  decide

/-- V16: the end of the frame. -/
theorem test_tick_wraps_the_frame :
    ((after .tick { s0 with vic := { regs := s0.vic.regs, hpos := 280, vpos := 311 } }).map fun t =>
      (t.vic.hpos, t.vic.vpos, t.events.length)) = some (0, 0, 4) := by
  decide

/-- A1 to A6, A9: port reads. -/
theorem test_port_reads :
    resultOf .rdVia1Orb (withVia1 { Via.reset with ddrb := 0x0F, orb := 0x0F }) = some (.byte 0xFF) ∧
      ((after .rdVia1Orb (withVia1 { Via.reset with ifr := 0x1A })).map fun t => t.via1.ifr) = some 0x02 ∧
      resultOf .rdVia1Ora (withVia1 { Via.reset with ddra := 0xF0, ora := 0x50 }) = some (.byte 0x5F) ∧
      resultOf .rdVia1Ora { s0 with joyUp := true, joyFire := true } = some (.byte 0xDB) ∧
      ((after .rdVia1Ora (withVia1 { Via.reset with ifr := 0x03 })).map fun t => t.via1.ifr) = some 0x00 ∧
      ((after .rdVia1OraNh (withVia1 { Via.reset with ifr := 0x03 })).map fun t => t.via1.ifr) = some 0x03 := by
  decide

/-- O17 to O22: the keyboard and the joystick through the ports. -/
theorem test_keyboard_and_joystick :
    let scan (ddrb orb : Byte) (cells : List (Fin 8 × Fin 8)) : State :=
      { withVia2 { Via.reset with ddrb := ddrb, orb := orb } with
        kbd := (cells.foldl (fun s c => setKey true c.1 c.2 s) s0).kbd }
    resultOf .rdVia2Ora (scan 0xFF 0xFE [(3, 0)]) = some (.byte 0xF7) ∧
      resultOf .rdVia2Ora (scan 0xFF 0xFD [(3, 0)]) = some (.byte 0xFF) ∧
      resultOf .rdVia2Ora (scan 0x00 0xFE [(3, 0)]) = some (.byte 0xFF) ∧
      resultOf .rdVia2Ora (scan 0xFF 0x7F [(0, 7), (5, 7)]) = some (.byte 0xDE) ∧
      resultOf .rdVia2Orb { s0 with joyRight := true } = some (.byte 0x7F) ∧
      resultOf .rdVia1Ora { s0 with joyUp := true, joyLeft := true } = some (.byte 0xEB) := by
  decide

/-- D26: a wiring with the matrix transposed, its rows selected on VIA1 port B and read on VIA2 port B. -/
theorem test_permuted_wiring :
    let column (c : Fin 8) : Config.LiveBit :=
      ([(0 : Fin 8), 1, 2, 3, 4, 5, 6, 7].foldr
        (fun r rest => .and (.not (.and (.not (.pin .via1 .b r)) (.key r c))) rest) .high)
    let s : State := { withVia1 { Via.reset with ddrb := 0xFF, orb := 0xF7 } with
      kbd := (setKey true 3 5 s0).kbd
      params := { Config.defaults with wiring := { Config.defaultWiring with
        via2B := #v[column 0, column 1, column 2, column 3, column 4, column 5, column 6, column 7] } } }
    resultOf .rdVia2Orb s = some (.byte 0xDF) ∧ resultOf .rdVia2Ora s = some (.byte 0xFF) := by
  decide +kernel

/-- A13, A17, A18 to A20, A24, A27, A28: the other register reads. -/
theorem test_via_reads :
    let s := withVia1 { Via.reset with
      t1c := 0x1234, t1l := 0xABCD, t2c := 0x0105, sr := 0x5A
      acr := 0xE3, pcr := 0xDE, ifr := 0x62, ier := 0x02 }
    resultOf .rdVia1T1cL s = some (.byte 0x34) ∧ resultOf .rdVia1T1cH s = some (.byte 0x12) ∧
      resultOf .rdVia1T1lL s = some (.byte 0xCD) ∧ resultOf .rdVia1T1lH s = some (.byte 0xAB) ∧
      resultOf .rdVia1T2cL s = some (.byte 0x05) ∧ resultOf .rdVia1T2cH s = some (.byte 0x01) ∧
      resultOf .rdVia1Sr s = some (.byte 0x5A) ∧ resultOf .rdVia1Acr s = some (.byte 0xE3) ∧
      resultOf .rdVia1Pcr s = some (.byte 0xDE) ∧ resultOf .rdVia1Ifr s = some (.byte 0xE2) ∧
      resultOf .rdVia1Ier s = some (.byte 0x82) ∧
      ((after .rdVia1T1cL s).map fun t => t.via1.ifr) = some 0x22 ∧
      ((after .rdVia1T2cL s).map fun t => t.via1.ifr) = some 0x42 := by
  decide

/-- E10: the summary bit. -/
theorem test_summary_bit :
    resultOf .rdVia2Ifr (withVia2 { Via.reset with ifr := 0x40, ier := 0x40 }) = some (.byte 0xC0) ∧
      resultOf .rdVia2Ifr (withVia2 { Via.reset with ifr := 0x40, ier := 0x20 }) = some (.byte 0x40) := by
  decide

/-- A2, A5, A7: port writes, and what the port sink is told. -/
theorem test_port_writes :
    ((after (.wrVia1Orb 0xFF) (withVia1 { Via.reset with ddrb := 0x0F })).map fun t => (t.via1.orb, t.events)) =
        some (0x0F, [.portOut .via1 .b 0x0F 0x0F]) ∧
      ((after (.wrVia1Ora 0x5C) (withVia1 { Via.reset with ddra := 0xF0 })).map fun t => t.via1.ora) = some 0x50 ∧
      ((after (.wrVia1OraNh 0x00) (withVia1 { Via.reset with ifr := 0x03 })).map fun t => t.via1.ifr) =
        some 0x03 := by
  decide

/-- A11, A12, A15, A16: timer writes. -/
theorem test_timer_writes :
    ((after (.wrVia1T1cL 0x34) s0).map fun t => (t.via1.t1l, t.via1.t1c)) = some (0x0034, 0x0000) ∧
      ((after (.wrVia1T1cH 0x12) (withVia1 { Via.reset with t1l := 0x0034, ifr := 0x40, t1trig := true, t1pre := 2 })).map
        fun t => (t.via1.t1l, t.via1.t1c, t.via1.ifr, t.via1.t1trig, t.via1.t1pre)) =
        some (0x1234, 0x1234, 0x00, false, 2) ∧
      ((after (.wrVia1T1lH 0x00) (withVia1 { Via.reset with ifr := 0x40, t1trig := true })).map
        fun t => (t.via1.ifr, t.via1.t1trig)) = some (0x00, true) ∧
      ((after (.wrVia1T2cH 0x01) (withVia1 { Via.reset with t2l := 0x05, ifr := 0x20, t2trig := true })).map
        fun t => (t.via1.t2c, t.via1.ifr, t.via1.t2trig)) = some (0x0105, 0x00, false) := by
  decide

/-- A20, A21: PCR drives the manual outputs. -/
theorem test_pcr_writes :
    ((after (.wrVia1Pcr 0xDE) s0).map fun t => (t.via1.pcr, t.via1.ca2, t.via1.cb2, t.history)) =
        some (0xDE, true, false, [.lineOut .via1 .ca2 true, .lineOut .via1 .cb2 false]) ∧
      ((after (.wrVia1Pcr 0x01) s0).map fun t => (t.via1.pcr, t.history)) = some (0x01, []) := by
  decide

/-- A22, A23, A25, E9: the interrupt registers. -/
theorem test_interrupt_register_writes :
    ((after (.wrVia1Ifr 0xC1) (withVia1 { Via.reset with ifr := 0x7F })).map fun t => t.via1.ifr) = some 0x3E ∧
      ((after (.wrVia1Ifr 0xFF) s0).map fun t => t.via1.ifr) = some 0x00 ∧
      ((after (.wrVia1Ier 0x7E) (withVia1 { Via.reset with ier := 0x7F })).map fun t => t.via1.ier) = some 0x01 ∧
      ((after (.wrVia2Ier 0xC0) s0).map fun t => t.via2.ier) = some 0x40 := by
  decide

/-- B10, B11: the two cores are apart. -/
theorem test_cores_are_apart :
    ((after (.wrVia2Ddra 0x0F) s0).map fun t => (t.via1.ddra, t.via2.ddra)) = some (0x00, 0x0F) ∧
      ((after (.wrVia1Ddra 0x0F) s0).map fun t => (t.via1.ddra, t.via2.ddra)) = some (0x0F, 0x00) := by
  decide

/-- T4, T5, T6, T9, T10, T12: one tick of the timers. -/
theorem test_timer_ticks :
    (fun v : Via => (v.t1c, v.ifr, v.t1trig, v.t1pre)) (viaTick { Via.reset with t1c := 1 }) = (0, 0x40, true, 0) ∧
      (viaTick { Via.reset with t1c := 0 }).t1c = 0xFFFF ∧
      (fun v : Via => (v.t1c, v.ifr, v.t1trig, v.t1pre))
        (viaTick { Via.reset with acr := 0x40, t1l := 3, t1c := 1 }) = (3, 0x40, false, 2) ∧
      (fun v : Via => (v.t1c, v.t1pre)) (viaTick { Via.reset with acr := 0x40, t1l := 3, t1c := 3, t1pre := 2 }) =
        (3, 1) ∧
      (fun v : Via => (v.t1c, v.ifr)) (viaTick { Via.reset with acr := 0x40, t1c := 1, t1trig := true }) = (0, 0) ∧
      (fun v : Via => (v.t2c, v.ifr, v.t2trig)) (viaTick { Via.reset with t2c := 1 }) = (0, 0x20, true) ∧
      (viaTick { Via.reset with acr := 0x20, t2c := 5 }).t2c = 5 := by
  decide

/-- C1, C2: the edge detector. -/
theorem test_edges :
    (viaTick { Via.reset with pcr := 0x01, ca1 := true }).ifr = 0x02 ∧
      (viaTick { Via.reset with pcr := 0x01, ca1 := true, ca1Prev := true }).ifr = 0x00 ∧
      (viaTick { Via.reset with pcr := 0x00, ca1 := true }).ifr = 0x00 ∧
      (viaTick { Via.reset with pcr := 0x00, ca1Prev := true }).ifr = 0x02 := by
  decide

/-- O1, O4, O5, O7: interrupt delivery in a tick; the pixels of the tick are left out of the comparison. -/
theorem test_interrupt_delivery :
    let due : Via := { Via.reset with ier := 0x40, t1c := 1 }
    let up : Via := { Via.reset with ier := 0x40, ifr := 0x40, t1trig := true }
    let signals (s : State) : List Event := ((tick s).history).filter fun e => e == .cpuNmi || e == .cpuIrq
    signals { s0 with via1 := due, via2 := due } = [.cpuNmi, .cpuIrq] ∧
      signals { s0 with via1 := up, nmiPrev := true } = [] ∧
      signals { s0 with via2 := up } = [.cpuIrq] ∧
      signals { s0 with via2 := up, cpu := { Cpu.null with irqIdle := false } } = [] := by
  decide

/-- A frame of one CPU step whose accesses come before its ticks (R251, O8), with a budget of 3. -/
theorem test_frame_runs_one_step :
    let s : State := { s0 with
      params := { Config.defaults with frameBudget := 3, activeX1 := 0 }
      via1 := { Via.reset with ifr := 0x40, t1c := 9 }
      cpu := { Cpu.null with steps := [{ accesses := [.write 0x911E 0xC0, .read 0x911E], cycles := 4 }] } }
    ((after .frame s).map fun t => (t.history, t.cpu.reads, t.fcarry, t.result)) =
      some ([.cpuNmi], [0xC0], 1, .cycles 4) := by
  decide +kernel

/-- A CPU step of no cycles is refused (R251). -/
theorem test_frame_refuses_a_zero_step :
    exec .frame { s0 with cpu := { Cpu.null with steps := [{ accesses := [], cycles := 0 }] } } =
      .refused .cpuStepZero := rfl

/-- O13, O14, O16: the injection, serviced once. -/
theorem test_injection :
    let s (n : Byte) (text : List Byte) : State :=
      { s0 with ram := [(0x00C6, n), (0x0289, 0x0A)], inj := some { text := text, idx := 0 } }
    ((fun t : State => (t.ram, t.inj)) (serviceInjection (s 0x01 [0x48, 0x49]))) =
        ([(0x00C6, 0x03), (0x0278, 0x48), (0x0279, 0x49), (0x0289, 0x0A)], none) ∧
      ((fun t : State => (t.ram, t.inj)) (serviceInjection (s 0x08 [0x52, 0x55, 0x4E, 0x0D]))) =
        ([(0x00C6, 0x0A), (0x027F, 0x52), (0x0280, 0x55), (0x0289, 0x0A)],
          some { text := [0x52, 0x55, 0x4E, 0x0D], idx := 2 }) ∧
      (serviceInjection (s 0x08 [])).inj = none := by
  decide

/-- R258: the text ends at the first zero byte. -/
theorem test_inject :
    ((after (.inject [0x48, 0x00, 0x49]) s0).map State.inj) = some (some { text := [0x48], idx := 0 }) := by decide

/-- R264 to R266. -/
theorem test_host_inputs :
    ((after (.key true 3 0) s0).map fun t => (t.kbd[3])[0]) = some true ∧
      ((after (.joy true .right) s0).map fun t => (t.joyRight, t.joyUp)) = some (true, false) ∧
      ((after (.line .via2 true .cb2) s0).map fun t => (t.via2.cb2, t.via1.cb2)) = some (true, false) := by
  decide

/-- E7, G2, G3: the ladder keeps and drops contents. -/
theorem test_ram_ladder :
    let s : State := { s0 with expram := Vector.replicate 5 true, ram := [(0x0010, 1), (0x0400, 2), (0x2000, 0x11)] }
    ((after (.ramcfg .k16) s).map fun t => (t.expram.toList, t.ram)) =
        some ([false, true, true, false, false], [(0x0010, 1), (0x2000, 0x11)]) ∧
      ((after (.ramcfg .k27) s0).map fun t => t.expram.toList) = some [true, true, true, true, false] := by
  decide

/-- E11, G11, G12, G7: what CART installs, with short buffers; an empty image still shadows. -/
theorem test_cartridge_install :
    ((after (.cart 0x2000 false [1, 2, 3]) s0).map fun t => t.cart.toList) = some [some [], none, none, none] ∧
      ((after (.cart 0xB000 false [1, 2, 3]) s0).map fun t => t.cart.toList) = some [none, none, none, none] ∧
      ((after (.cart 0x0000 true [1, 2, 3]) { s0 with fcarry := 5 }).map fun t => (t.cart.toList, t.fcarry)) =
        some ([none, none, none, none], 5) ∧
      ((after (.cart 0xA000 true []) { s0 with fcarry := 5 }).map fun t => (t.cart.toList, t.fcarry)) =
        some ([none, none, none, some []], 0) := by
  decide

/-- E6, G14, G16, G17: the loader and its pointers. -/
theorem test_program_loader :
    ((after (.prg false [0x01, 0x10, 0xAA, 0xBB]) s0).map State.ram) =
        some [(0x002D, 0x03), (0x002E, 0x10), (0x002F, 0x03), (0x0030, 0x10), (0x0031, 0x03), (0x0032, 0x10),
          (0x00AE, 0x03), (0x00AF, 0x10), (0x1001, 0xAA), (0x1002, 0xBB)] ∧
      ((after (.prg true [0x00]) s0).map fun t => (t.ram, t.inj)) = some ([], none) ∧
      ((after (.prg true [0xFE, 0xFF, 1, 2, 3]) s0).map fun t => (t.ram, t.inj)) =
        some ([(0x0000, 3), (0x002D, 0x01), (0x002F, 0x01), (0x0031, 0x01), (0x00AE, 0x01)],
          some { text := [0x52, 0x55, 0x4E, 0x0D], idx := 0 }) := by
  decide

/-- R31: the reset values of a core, written out. -/
theorem test_core_reset_values :
    let v := Via.reset
    v.ora = 0 ∧ v.orb = 0 ∧ v.ddra = 0 ∧ v.ddrb = 0 ∧ v.t1c = 0 ∧ v.t1l = 0 ∧ v.t1pre = 0 ∧ v.t1trig = false ∧
      v.t2c = 0 ∧ v.t2l = 0 ∧ v.t2trig = false ∧ v.sr = 0 ∧ v.acr = 0 ∧ v.pcr = 0 ∧ v.ifr = 0 ∧ v.ier = 0 ∧
      v.ca1 = false ∧ v.ca1Prev = false ∧ v.ca2 = false ∧ v.ca2Prev = false ∧
      v.cb1 = false ∧ v.cb1Prev = false ∧ v.cb2 = false ∧ v.cb2Prev = false := by
  decide

/-- R1, R3, R4: what a reset sets and what it keeps. -/
theorem test_reset :
    let s : State := { withVia1 { Via.reset with ier := 0x7F, acr := 0x40, t1c := 0x1234 } with
      ram := [(0x1000, 0x99)], cart := #v[none, none, none, some []], inj := some { text := [1, 2], idx := 1 }
      fcarry := 5, nmiPrev := true, joyFire := true }
    ((after .reset s).map State.via1) = some Via.reset ∧
      ((after .reset s).map fun t => (t.ram, t.cart.toList, t.inj)) =
        some ([(0x1000, 0x99)], [none, none, none, some []], some { text := [1, 2], idx := 1 }) ∧
      ((after .reset s).map fun t => (t.fcarry, t.nmiPrev, t.joyFire, t.cpu.resetCount)) =
        some (0, false, false, 2) := by
  decide

/-! ### Witnesses: a state and operands that meet the hypotheses of a statement, clause by clause -/

theorem test_witness_DecodeOfEncodeIsIdentity :
    (Instr.rdCart0 0x3FFF).wf = true ∧ (Instr.rdCart0 0x3FFF).selected allCarts = true ∧
      (Instr.wrFloat 0x2000 1).wf = true ∧ (Instr.wrFloat 0x2000 1).selected Presence.empty = true := by
  decide

theorem test_witness_EncodeOfDecodeRestoresTheWord :
    decode Presence.empty (op 0x00912DFF) = .ok .rdVia2Ifr ∧ decode Presence.empty (op 0x18000000) = .ok .tick := by
  decide

theorem test_witness_EveryBusWordSelectsExactlyOneRow :
    (fieldOpc 0x00FFFF00).toNat ≤ 2 ∧ fieldRsv 0x00FFFF00 = 0 ∧ (Instr.rdRomKernal 0xFFFF).wf = true ∧
      (Instr.rdRomKernal 0xFFFF).selected Presence.empty = true ∧
      fieldOpc (encodeWord (.rdRomKernal 0xFFFF)) = fieldOpc 0x00FFFF00 ∧
      addrOf (.rdRomKernal 0xFFFF) = fieldAddr 0x00FFFF00 := by
  decide

/-- A reserved word and one that is not. -/
theorem test_witness_StepRefusesExactlyTheReservedWords :
    (s0.withFetchWord 32 0x30000040).queue = [op 0x30000040] ∧ reservedWord 0x30000040 ∧
      (s0.withFetchWord 32 0x3000003F).queue = [op 0x3000003F] ∧ ¬reservedWord 0x3000003F :=
  ⟨rfl, by unfold reservedWord; decide, rfl, by unfold reservedWord; decide⟩

theorem test_witness_StepRunsTheDecodedOperation :
    (s0.withFetchWord 32 0x20000000).queue = [op 0x20000000] ∧
      decode (s0.withFetchWord 32 0x20000000).presence (op 0x20000000) = .ok .frame := ⟨rfl, by decide⟩

theorem test_witness_ReadRowsAreBusReads :
    fieldOpc (encodeWord (.rdRamLo 0x03FF)) = 0 ∧ (Instr.rdRamLo 0x03FF).wf = true ∧
      fieldOpc (encodeWord .rdVia2OraNh) = 0 ∧ Instr.rdVia2OraNh.wf = true := by
  decide

theorem test_witness_WriteRowsAreBusWrites :
    fieldOpc (encodeWord (.wrColram 0x9400 5)) = 1 ∧ (Instr.wrColram 0x9400 5).wf = true ∧
      fieldOpc (encodeWord (.wrVicReg0 5)) = 1 ∧ (Instr.wrVicReg0 5).wf = true := by
  decide

/-- The windows at their ends, and the addresses next to them. -/
theorem test_witness_VideoReadRowsHaveNoSideEffect :
    (∀ i ∈ [Instr.vrdVicWindow 0x9000, .vrdVicWindow 0x900F, .vrdViaWindows 0x9110, .vrdViaWindows 0x912F],
      fieldOpc (encodeWord i) = 2 ∧ i.wf = true ∧
        (AddrRange.covers .vicWindow (addrOf i) = true ∨ AddrRange.covers .viaWindows (addrOf i) = true)) ∧
    ∀ i ∈ [Instr.vrdRomChar 0x8FFF, .vrdFloat 0x9010, .vrdFloat 0x910F, .vrdFloat 0x9130],
      fieldOpc (encodeWord i) = 2 ∧ i.wf = true ∧
        AddrRange.covers .vicWindow (addrOf i) = false ∧ AddrRange.covers .viaWindows (addrOf i) = false := by
  decide

/-- A canonical memory that is not empty, and both ends of each range. -/
theorem test_witness_FixedRamReadsAndWrites :
    Memory.wf 0 [(0x0010, 0xA5), (0x97FF, 0x01)] = true ∧
      AddrRange.covers .ramLo 0x0000 = true ∧ AddrRange.covers .ramLo 0x03FF = true ∧
      AddrRange.covers .ramMid 0x1000 = true ∧ AddrRange.covers .ramMid 0x1FFF = true ∧
      AddrRange.covers .colram 0x9400 = true ∧ AddrRange.covers .colram 0x97FF = true := by
  decide

theorem test_witness_ExpansionBlockZeroReadsAndWrites :
    AddrRange.covers .expram0 0x0400 = true ∧ AddrRange.covers .expram0 0x0FFF = true ∧
      (ladder .k3)[(0 : Fin 5)] = true ∧ s0.expram[(0 : Fin 5)] = false := by
  decide

/-- A slot with an image of one byte: its only byte, and the first past it; the RAM behind, present and absent. -/
theorem test_witness_ExpansionRegionsReadAndWrite :
    let s : State := { s0 with cart := #v[none, none, none, some [7]], expram := ladder .k8 }
    (inRegion 3 0xA000 ∧ s.cart[(3 : Fin 4)] = some [7] ∧ (0xA000#16).toNat - cartBase 3 < 1) ∧
      (inRegion 3 0xBFFF ∧ 1 ≤ (0xA001#16).toNat - cartBase 3) ∧
      (inRegion 0 0x2000 ∧ s.cart[(0 : Fin 4)] = none ∧ s.expram[blockOfSlot 0] = true) ∧
      (inRegion 2 0x7FFF ∧ s.cart[(2 : Fin 4)] = none ∧ s.expram[blockOfSlot 2] = false) := by
  unfold inRegion
  decide

theorem test_witness_RomRowsReadAndDiscardWrites :
    AddrRange.covers .romChar 0x8000 = true ∧ AddrRange.covers .romChar 0x8FFF = true ∧
      AddrRange.covers .romBasic 0xC000 = true ∧ AddrRange.covers .romBasic 0xDFFF = true ∧
      AddrRange.covers .romKernal 0xE000 = true ∧ AddrRange.covers .romKernal 0xFFFF = true := by
  decide

theorem test_witness_UnclaimedAddressesFloat :
    ([0x0400, 0x0FFF, 0x2000, 0x7FFF, 0x9010, 0x910F, 0x9130, 0x93FF, 0x9800, 0x9FFF, 0xBFFF] : List Addr).all
      (fun a => (Instr.rdFloat a).wf && (Instr.rdFloat a).selected s0.presence) = true := by
  decide

theorem test_witness_WritesToReadOnlyTargetsChangeNothing :
    let s : State := { s0 with cart := #v[some [7], some [7], some [7], some [7]] }
    (∀ i ∈ [Instr.wrRomChar 0x8000 1, .wrRomBasic 0xC000 1, .wrRomKernal 0xFFFF 1, .wrCart0 0x2000 1, .wrCart1 0x4000 1,
      .wrCart2 0x6000 1, .wrCart3 0xA000 1, .wrFloat 0x2001 1], i.wf = true ∧ i.selected s.presence = true) := by
  decide

theorem test_witness_RamReadsBackWhatWasWritten :
    let s : State := { s0 with expram := ladder .k35, ram := [(0x0010, 0xA5)] }
    Memory.wf s.params.ramInit s.ram = true ∧ s.target 0x03FF = .ramLo ∧ s.target 0x1000 = .ramMid ∧
      s.target 0x97FF = .colram ∧ s.target 0x0400 = .expram 0 ∧ s.target 0xBFFF = .expram 4 := by
  decide

/-- The widths of zero: COLS with bit 7 set, ROWS with bits 7 and 0 set. -/
theorem test_witness_GeometryFollowsRegisterWrites : (0x80#8).toNat % 128 = 0 ∧ (0x81#8).toNat / 2 % 64 = 0 := by decide

theorem test_witness_PortLiveValuesFollowTheWiring : s0.params.wiring = Config.defaultWiring := rfl

/-- Not yet triggered, before and at the expiry, with and without a delay; and triggered, in free-run mode. -/
theorem test_witness_OneShotTimerFiresOnce :
    let v : Via := { Via.reset with t1c := 3, t1pre := 2 }
    (v.acr.getLsbD 6 = false ∧ v.t1trig = false ∧ 4 < v.t1pre + ticksToZero v.t1c ∧
        v.t1pre + ticksToZero v.t1c ≤ 5) ∧
      (0 + ticksToZero 0 ≤ 65536 ∧ 65535 < 0 + ticksToZero 0) ∧
      { v with t1trig := true, acr := 0x40 }.t1trig = true := by
  decide

theorem test_witness_FreeRunTimerIsPeriodic :
    let v : Via := { Via.reset with t1c := 3, t1l := 3, t1pre := 2, acr := 0x40 }
    v.acr.getLsbD 6 = true ∧ v.t1trig = false ∧ 4 < v.t1pre + ticksToZero v.t1c ∧
      5 = v.t1pre + ticksToZero v.t1c := by
  decide

theorem test_witness_TimerTwoFiresOnce :
    { Via.reset with acr := 0x20 }.acr.getLsbD 5 = true ∧ { Via.reset with acr := 0xDF }.acr.getLsbD 5 = false := by
  decide

/-- A line that stays up for two ticks, and a CPU that says no. -/
theorem test_witness_IrqOnEveryTickWhileAsserted :
    let s : State := withVia2 { Via.reset with ifr := 0x40, ier := 0x40 }
    s.cpu.irqAnswers = [] ∧ s.cpu.irqIdle = true ∧ irqLine (viaTick (ticks 0 s).via2) = true ∧
      irqLine (viaTick (ticks 1 s).via2) = true ∧ { s.cpu with irqIdle := false }.irqIdle = false := by
  decide +kernel

theorem test_witness_RasterAdvancesOneGroupPerTick :
    let s : State := { s0 with vic := { regs := s0.vic.regs, hpos := 280, vpos := 311 } }
    0 < s.params.stride ∧ s.vic.hpos < s.params.htotal ∧ s.vic.vpos < s.params.vtotal ∧
      s.vic.hpos % s.params.stride = 0 := by
  decide

/-- V21, V22: the pixels next to the area, on its four sides. -/
theorem test_witness_BorderOutsideTheCharacterArea :
    let s := withRegs fun r => (((r.set 0 0x05).set 1 0x19).set 2 0x01).set 3 0x02
    let outside (px y : Nat) : Prop :=
      ¬(leftEdge s ≤ px ∧ px < leftEdge s + areaW s ∧ topEdge s ≤ y ∧ y < topEdge s + areaH s)
    outside 19 50 ∧ outside 28 50 ∧ outside 20 49 ∧ outside 20 58 := by
  decide

/-- The corners of a one-cell area; a hi-resolution and a multicolour colour byte. -/
theorem test_witness_CharacterPixels :
    let s := withRegs fun r => (((r.set 0 0x05).set 1 0x19).set 2 0x01).set 3 0x02
    let inside (px y : Nat) : Prop :=
      leftEdge s ≤ px ∧ px < leftEdge s + areaW s ∧ topEdge s ≤ y ∧ y < topEdge s + areaH s
    (inside 20 50 ∧ inside 27 57) ∧
      (videoRead 0x9400 { s with ram := [(0x9400, 0xF7)] }).toNat % 16 < 8 ∧
      8 ≤ (videoRead 0x9400 { s with ram := [(0x9400, 0x08)] }).toNat % 16 := by
  decide

/-- V10 to V12: one glyph address of each kind. -/
theorem test_witness_GlyphAddressFolds :
    let s1 := withRegs fun r => r.set 5 0x0F
    let s2 := withRegs fun r => r.set 5 0x07
    (7 < charH s1 ∧ ¬(0x8000 ≤ (charBase s1).toNat) ∧ (charBase s1).toNat < 0x2000 ∧
        0x2000 ≤ (charBase s1).toNat + 0xFF * charH s1 + 7) ∧
      (0x8000 ≤ (charBase s2).toNat ∧ 0xA000 ≤ (charBase s2).toNat + 0x80 * charH s2) ∧
      (¬(0xA000 ≤ (charBase s2).toNat + 0x7F * charH s2 + 7) ∧ ¬((charBase s2).toNat < 0x2000)) := by
  decide

theorem test_witness_GroupsNeverStraddleACell :
    let s := withRegs fun r => ((r.set 0 0x05).set 2 0x01).set 3 0x02
    s.params.hBias % 4 = 0 ∧ 24 % 4 = 0 ∧ 3 < 4 ∧ leftEdge s ≤ 24 := by
  decide

theorem test_witness_FrameRunsToItsBudget :
    cpuContract { Cpu.null with steps := [{ accesses := [.read 0x911D], cycles := 7 }] } :=
  ⟨by decide, by simp⟩

/-- The second step would take no cycles, and the budget is not met before it. -/
theorem test_witness_FrameRefusesAZeroCycleStep :
    let c : Cpu := { Cpu.null with steps := [{ accesses := [], cycles := 4 }, { accesses := [], cycles := 0 }] }
    0 + cyclesOf (cpuStepsTaken 1 c) < 22152 ∧ (∀ x ∈ cpuStepsTaken 1 c, 1 ≤ x.cycles) ∧
      ((cpuStepsTaken 2 c).getLast?.map CpuStep.cycles) = some 0 := by
  decide

/-- Two frames of a small budget, both from carry 0 and from a carry below the longest step. -/
theorem test_witness_FrameCarryDoesNotDrift :
    let s : State := { s0 with params := { Config.defaults with frameBudget := 3, activeX1 := 0 } }
    ((framesRun 2 s).map fun r => (r.1, r.2.fcarry)) = some (8, 2) ∧ s.fcarry = 0 ∧ s.fcarry < 4 ∧
      s.cpu.idle.cycles ≤ 4 ∧ ∀ x ∈ s.cpu.steps, x.cycles ≤ 4 := by
  decide +kernel

theorem test_witness_InjectionFillsTheGuestBuffer :
    let s (text : List Byte) (idx : Nat) : State :=
      { s0 with ram := [(0x00C6, 0x08), (0x0289, 0x0A)], inj := some { text := text, idx := idx } }
    (s [0x52, 0x55, 0x4E] 0).params = Config.defaults ∧
      Memory.wf (s [0x52, 0x55, 0x4E] 0).params.ramInit (s [0x52, 0x55, 0x4E] 0).ram = true ∧
      (s [0x52, 0x55, 0x4E] 0).inj = some { text := [0x52, 0x55, 0x4E], idx := 0 } ∧
      0 ≤ [0x52#8, 0x55#8, 0x4E#8].length ∧
      (s [0x52, 0x55] 2).inj = some { text := [0x52, 0x55], idx := 2 } ∧ 2 ≤ [0x52#8, 0x55#8].length :=
  ⟨rfl, by decide, rfl, by decide, rfl, by decide⟩

theorem test_witness_RamConfigurationFollowsTheLadder :
    expBlockOf 0x03FF = none ∧ expBlockOf 0x0400 = some 0 ∧ expBlockOf 0x2000 = some 1 ∧ expBlockOf 0x5FFF = some 2 ∧
      expBlockOf 0x7FFF = some 3 ∧ expBlockOf 0x8000 = none ∧ expBlockOf 0xBFFF = some 4 ∧
      expBlockOf 0xC000 = none := by
  decide

/-- The two lengths auto-detect recognises, with their header, and one it does not. -/
theorem test_witness_CartInstallsInTheAddressedSlot (data : List Byte) (h : data = List.replicate 4096 7) :
    (0xA000 : Addr) ≠ 0 ∧
      ((0x00 :: 0xA0 :: data).length = 4098 ∧ (0x00 :: 0xA0 :: data)[0]? = some 0x00 ∧
        (0x00 :: 0xA0 :: data)[1]? = some 0xA0) ∧
      (0x00 :: 0x20 :: (data ++ data)).length = 8194 ∧
      ([0x00#8, 0xA0#8].length ≠ 4098 ∧ [0x00#8, 0xA0#8].length ≠ 8194) ∧
      cartSlot 0xA000 = some 3 ∧ cartSlot 0xB000 = none := by
  subst h
  refine ⟨by decide, ⟨?_, rfl, rfl⟩, ?_, by decide, by decide, by decide⟩
  · simp only [List.length_cons, List.length_replicate]
  · simp only [List.length_cons, List.length_append, List.length_replicate]

theorem test_witness_ProgramLoaderWritesDataAndPointers :
    [0x01#8].length < 2 ∧ [0xFE#8, 0xFF, 1] = 0xFE :: 0xFF :: [1] := by
  decide

theorem test_witness_ResetRestoresThePowerOnValues : s0.cpu.resetAccesses = [] := rfl

theorem test_witness_CpuResetSeesTheResetBlock :
    { s0.cpu with resetAccesses := [[.read 0xFFFC, .read 0xFFFD]] }.resetAccesses =
      [.read 0xFFFC, .read 0xFFFD] :: [] := rfl

/-- A state with a canonical memory, a present block, a cartridge, a scan at the end of the frame and a string half
injected, and a step from it. -/
theorem test_witness_InvariantIsKeptByEveryStep :
    let s : State := { s0.withFetchWord 32 0x60000000 with
      ram := [(0x0010, 1), (0x0400, 2)], expram := ladder .k3, cart := #v[some [], none, none, none]
      vic := { regs := s0.vic.regs, hpos := 280, vpos := 311 }, inj := some { text := [1, 2], idx := 1 } }
    s.Inv ∧ step s = .next { s with queue := [], inj := some { text := [], idx := 0 } } := by
  refine ⟨⟨by decide, by decide, by decide, by decide, ?_, ?_, ?_⟩, rfl⟩
  · intro c hc
    have hc : c = (0x0010, 1) ∨ c = (0x0400, 2) := by simpa using hc
    rcases hc with rfl | rfl
    · exact .inl (by decide)
    · exact .inr (.inr (.inr ⟨0, by decide, by decide⟩))
  · intro c image h
    fin_cases c <;> cases h
    exact .inl rfl
  · intro x h
    cases h
    exact ⟨by decide, by decide⟩

theorem test_witness_UnmodelledFlagsAreNeverSet :
    step (s0.withFetchWord 32 0x40000100) = .next (withVia1 { Via.reset with ca1 := true }) := rfl

/-- One operation that may change the presence, and one that may not. -/
theorem test_witness_ConfigurationChangesOnlyByItsOperations :
    exec (.ramcfg .k3) s0 = .next { s0 with expram := ladder .k3 } ∧
      exec (.joy true .up) s0 = .next { s0 with joyUp := true } ∧ (∀ r, Instr.joy true .up ≠ .ramcfg r) ∧
      ∀ a rst buf, Instr.joy true .up ≠ .cart a rst buf :=
  ⟨rfl, rfl, by simp, by simp⟩

theorem test_witness_InterruptsAreDeliveredOnlyByTicks :
    exec (.wrVia1Ier 0xC0) (withVia1 { Via.reset with ifr := 0x40 }) =
        .next (withVia1 { Via.reset with ifr := 0x40, ier := 0x40 }) ∧
      Instr.wrVia1Ier 0xC0 ≠ .tick ∧ Instr.wrVia1Ier 0xC0 ≠ .frame :=
  ⟨rfl, by simp, by simp⟩

end Sys2Proof.Tests
end

section
/-! What an operation can do to the configuration: the parameters, the presence of the expansion blocks and the
cartridges (R7, R23, R24). -/

namespace Sys2Proof.Machine

/-- The two states have the same parameters, expansion blocks and cartridges. -/
def SameConfig (s t : State) : Prop := t.params = s.params ∧ t.expram = s.expram ∧ t.cart = s.cart

/-- `config_stable` under the relation's name, so that its conclusions come out as `SameConfig`. -/
theorem sameConfig_busStable : BusStable SameConfig := config_stable

theorem tick_sameConfig (s : State) : SameConfig s (tick s) := ⟨tick_params s, tick_expram s, tick_cart s⟩

/-- FRAME is made of bus accesses and ticks; the carry, INJ and the result lie outside the configuration. -/
theorem runFrame_sameConfig {s t : State} (h : runFrame s = some t) : SameConfig s t :=
  sameConfig_busStable.runFrame tick_sameConfig (fun _ _ => ⟨rfl, rfl, rfl⟩) (fun _ _ => ⟨rfl, rfl, rfl⟩)
    (fun _ _ => ⟨rfl, rfl, rfl⟩) h

theorem resetComponents_sameConfig (s : State) : SameConfig s (resetComponents s) := ⟨rfl, rfl, rfl⟩

/-- R321: RESET keeps what is installed, whatever the CPU's own reset does on the bus. -/
theorem doReset_sameConfig (s : State) : SameConfig s (doReset s) := by
  rw [doReset_eq]
  exact sameConfig_busStable.trans (resetComponents_sameConfig s) (sameConfig_busStable.cpuReset _)

theorem loadPrg_sameConfig (buf : List Byte) (run : Bool) (s : State) : SameConfig s (loadPrg buf run s) :=
  sameConfig_busStable.loadPrg (fun _ _ => ⟨rfl, rfl, rfl⟩) buf run s

theorem setJoy_sameConfig (pressed : Bool) (b : Button) (s : State) : SameConfig s (setJoy pressed b s) := by
  cases b <;> exact ⟨rfl, rfl, rfl⟩

theorem setLine_sameConfig (k : ViaId) (level : Bool) (l : ControlLine) (s : State) :
    SameConfig s (setLine k level l s) :=
  ⟨State.setVia_params .., State.setVia_expram .., State.setVia_cart ..⟩

/-- CART installs an image, with a reset or without; neither touches the parameters or the expansion blocks. -/
theorem loadCart_keeps_params_expram (a : Addr) (rst : Bool) (buf : List Byte) (s : State) :
    (loadCart a rst buf s).params = s.params ∧ (loadCart a rst buf s).expram = s.expram := by
  rcases loadCart_cases a rst buf s with h | ⟨c, image, -, h⟩
  · rw [h]
    exact ⟨rfl, rfl⟩
  · rw [h]
    split
    · obtain ⟨hp, he, -⟩ := doReset_sameConfig { s with cart := s.cart.set c (some image) }
      exact ⟨hp, he⟩
    · exact ⟨rfl, rfl⟩

/-- The operations sorted by what they do to the configuration: RAMCFG, CART, and all others, which keep it. -/
theorem Effect.config_cases {s t : State} {i : Instr} (h : Effect s i t) :
    SameConfig s t ∨ (∃ r, i = .ramcfg r ∧ t = configureRam r s) ∨
      ∃ a rst buf, i = .cart a rst buf ∧ t = loadCart a rst buf s := by
  cases h with
  | read a => exact .inl ⟨busRead_params a s, busRead_expram a s, busRead_cart a s⟩
  | write a v => exact .inl (sameConfig_busStable.write a v s)
  | video a => exact .inl ⟨rfl, rfl, rfl⟩
  | tick => exact .inl (tick_sameConfig s)
  | frame h => exact .inl (runFrame_sameConfig h)
  | reset => exact .inl (doReset_sameConfig s)
  | key p r c => exact .inl ⟨rfl, rfl, rfl⟩
  | joy p b => exact .inl (setJoy_sameConfig p b s)
  | line k level l => exact .inl (setLine_sameConfig k level l s)
  | ramcfg r => exact .inr (.inl ⟨r, rfl, rfl⟩)
  | cart a rst buf => exact .inr (.inr ⟨a, rst, buf, rfl, rfl⟩)
  | prg run buf => exact .inl (loadPrg_sameConfig buf run s)
  | inject buf => exact .inl ⟨rfl, rfl, rfl⟩

/-- Settles O59, by the three cases of `Effect.config_cases`. -/
theorem configurationChangesOnlyByItsOperations : Obligations.ConfigurationChangesOnlyByItsOperations := by
  intro i s t h
  rcases (exec_effect h).config_cases with ⟨hp, he, hc⟩ | ⟨r, rfl, rfl⟩ | ⟨a, rst, buf, rfl, rfl⟩
  · exact ⟨hp, fun _ => he, fun _ => hc⟩
  · exact ⟨rfl, fun hne => absurd rfl (hne r), fun _ => rfl⟩
  · obtain ⟨hp, he⟩ := loadCart_keeps_params_expram a rst buf s
    exact ⟨hp, fun _ => he, fun hne => absurd rfl (hne a rst buf)⟩

end Sys2Proof.Machine
end

section
/-! The invariant of the block under each operation (R23, R24, R28, R31, R39, R61). Bus accesses, ticks and the
CPU's own data keep it, so one `BusStable` relation carries it through the frame loop, the loaders and the CPU's reset;
the clause on INJ is shown anew where INJ changes. -/

namespace Sys2Proof.Machine

/-! ### The clauses one at a time -/

/-- The precount clause with the core as an argument. -/
theorem precount_iff (s : State) : (s.via1.t1pre ≤ 2 ∧ s.via2.t1pre ≤ 2) ↔ ∀ k, (s.via k).t1pre ≤ 2 :=
  ⟨fun ⟨h1, h2⟩ k => by cases k <;> assumption, fun h => ⟨h .via1, h .via2⟩⟩

/-- An address that decodes to RAM has a store (R22, R23, R61). -/
theorem storeExists_of_ramTarget {s : State} {a : Addr}
    (h : s.target a = .ramLo ∨ s.target a = .ramMid ∨ s.target a = .colram ∨ ∃ b, s.target a = .expram b) :
    storeExists s.expram a.toNat := by
  have hrow := s.target_case a
  generalize s.target a = t at h hrow
  cases hrow with
  | ramLo h1 => exact .inl h1
  | ramMid h1 h2 => exact .inr (.inl ⟨h1, h2⟩)
  | colram h1 h2 => exact .inr (.inr (.inl ⟨h1, h2⟩))
  | expram0 h1 h2 hp =>
    refine .inr (.inr (.inr ⟨0, ?_, hp⟩))
    rw [expBlockOf, if_neg (by omega), if_pos (by omega)]
  | expram c h1 h2 _ hp =>
    refine .inr (.inr (.inr ⟨c.succ, ?_, hp⟩))
    unfold expBlockOf
    rcases cartBase_cases c with ⟨rfl, hb⟩ | ⟨rfl, hb⟩ | ⟨rfl, hb⟩ | ⟨rfl, hb⟩ <;> rw [hb] at h1 h2 <;>
      (repeat rw [if_neg (by omega)]) <;> rw [if_pos (by omega)] <;> rfl
  | _ => simp at h

/-- A write through the bus makes no cell without a store. -/
theorem busWrite_cellsExist (a : Addr) (v : Byte) {s : State} (h : ∀ c ∈ s.ram, storeExists s.expram c.1) :
    ∀ c ∈ (busWrite a v s).ram, storeExists s.expram c.1 := by
  intro c hc
  rcases busWrite_ram a v s with ⟨ht, hr⟩ | hr <;> rw [hr] at hc
  · rcases mem_memWrite hc with hm | hca
    · exact h c hm
    · rw [hca]
      exact storeExists_of_ramTarget ht
  · exact h c hc

/-- A cell that RAMCFG keeps has a store afterwards (R268). -/
theorem storeExists_of_cellKept {old new : Vector Bool 5} {c : Host.Cell} (h : storeExists old c.1)
    (hk : cellKept old new c = true) : storeExists new c.1 := by
  rcases h with h | h | h | ⟨b, hb, -⟩
  · exact .inl h
  · exact .inr (.inl h)
  · exact .inr (.inr (.inl h))
  · simp only [cellKept, hb, Bool.and_eq_true] at hk
    exact .inr (.inr (.inr ⟨b, hb, hk.2⟩))

/-- An installed image of an admitted length keeps every slot's length admitted (R24). -/
theorem cartLengthOk_set {cart : Vector (Option (List Byte)) 4} {image : List Byte} (c : Fin 4)
    (h : ∀ d : Fin 4, cartLengthOk cart[d])
    (hi : image.length = 0 ∨ image.length = 4096 ∨ image.length = 8192) (d : Fin 4) :
    cartLengthOk (cart.set c (some image))[d] := by
  by_cases hcd : c = d
  · subst hcd
    simpa [cartLengthOk] using hi
  · have hne : (c : Nat) ≠ d := fun e => hcd (Fin.ext e)
    simpa [hne] using h d

/-! ### Bus accesses and ticks -/

theorem busRead_keeps_inv (a : Addr) {s : State} (h : s.Inv) : (busRead a s).2.Inv where
  frameSized := by simpa using h.frameSized
  scanInFrame := by simpa using h.scanInFrame
  precount := by
    rw [precount_iff]
    intro k
    rw [busRead_t1pre]
    exact (precount_iff s).mp h.precount k
  memCanonical := by simpa using h.memCanonical
  cellsExist := by simpa using h.cellsExist
  cartSizes := by simpa using h.cartSizes
  injection := by simpa using h.injection

theorem busWrite_keeps_inv (a : Addr) (v : Byte) {s : State} (h : s.Inv) : (busWrite a v s).Inv where
  frameSized := by simpa using h.frameSized
  scanInFrame := by simpa using h.scanInFrame
  precount := by
    rw [precount_iff]
    intro k
    rw [busWrite_t1pre]
    exact (precount_iff s).mp h.precount k
  memCanonical := by
    rw [busWrite_params]
    exact busWrite_wf a v s h.memCanonical
  cellsExist := by
    rw [busWrite_expram]
    exact busWrite_cellsExist a v h.cellsExist
  cartSizes := by simpa using h.cartSizes
  injection := by simpa using h.injection

theorem tick_keeps_inv {s : State} (h : s.Inv) : (tick s).Inv where
  frameSized := by simpa using h.frameSized
  scanInFrame := by
    obtain ⟨hh, hv⟩ := h.frameSized
    obtain ⟨-, hvpos, hgroup⟩ := h.scanInFrame
    rw [tick_params, tick_vic]
    exact advanceScan_inFrame _ _ hh hv hvpos hgroup
  precount := by
    obtain ⟨h1, h2⟩ := h.precount
    rw [tick_via1, tick_via2]
    exact ⟨viaTick_t1pre _ h1, viaTick_t1pre _ h2⟩
  memCanonical := by simpa using h.memCanonical
  cellsExist := by simpa using h.cellsExist
  cartSizes := by simpa using h.cartSizes
  injection := by simpa using h.injection

/-- Every bus access keeps the invariant. -/
theorem inv_busStable : BusStable fun s t => s.Inv → t.Inv where
  refl _ h := h
  trans h1 h2 h := h2 (h1 h)
  read a _ h := busRead_keeps_inv a h
  write a v _ h := busWrite_keeps_inv a v h
  cpu _ _ h := { h with }

/-! ### Injection -/

/-- A fresh injection is within its string when the string holds no zero byte (R258, R274). -/
theorem injectionOk_start {text : List Byte} (h : (0 : Byte) ∉ text) : injectionOk (some { text := text, idx := 0 }) := by
  rintro _ ⟨⟩
  exact ⟨Nat.zero_le _, h⟩

/-- The writing loop stops at the end of the string at the latest (R257). -/
theorem injectLoop_idx_le (m : Byte) (text : List Byte) (n : Byte) (i : Nat) (s : State) :
    (injectLoop m text n i s).1 ≤ i + text.length := by
  induction text generalizing n i s with
  | nil => exact Nat.le_refl i
  | cons ch rest ih =>
    simp only [injectLoop, List.length_cons]
    split
    · exact (ih _ _ _).trans (by omega)
    · exact Nat.le_add_right _ _

theorem injectionOk_left {text : List Byte} {i : Nat} (hi : i ≤ text.length) (h : (0 : Byte) ∉ text) :
    injectionOk (injectionLeft text i) := by
  unfold injectionLeft
  split
  · exact fun _ hx => nomatch hx
  · rintro _ ⟨⟩
    exact ⟨hi, h⟩

theorem serviceInjection_keeps_inv {s : State} (h : s.Inv) : (serviceInjection s).Inv := by
  unfold serviceInjection
  split
  · exact h
  · rename_i j hj
    obtain ⟨hidx, hzero⟩ := h.injection j hj
    have hreads := busRead_keeps_inv s.params.xmaxAddr (busRead_keeps_inv s.params.ndxAddr h)
    have hout := inv_busStable.injectLoop
      (busRead s.params.xmaxAddr (busRead s.params.ndxAddr s).2).1 (j.text.drop j.idx)
      (busRead s.params.ndxAddr s).1 j.idx _ hreads
    exact { hout with
      injection := injectionOk_left
        ((injectLoop_idx_le _ _ _ _ _).trans (by rw [List.length_drop]; omega)) hzero }

/-! ### Frames, reset and the host operations -/

/-- What RunFrame answers: the frame loop's state with the carry and the rest of the CPU's script, then the injection
serviced (R250, R256). -/
theorem runFrame_some {s t : State} (h : runFrame s = some t) :
    ∃ acc steps s1,
      frameLoop s.params.frameBudget s.cpu.idle (s.params.frameBudget - s.fcarry) s.fcarry s.cpu.steps s =
        some (acc, steps, s1) ∧
      t = { serviceInjection
              { s1 with cpu := { s1.cpu with steps := steps }, fcarry := acc - s.params.frameBudget } with
            result := .cycles acc } := by
  unfold runFrame at h
  split at h
  · cases h
  · cases h
    exact ⟨_, _, _, ‹_›, rfl⟩

theorem runFrame_keeps_inv {s t : State} (h : s.Inv) (hr : runFrame s = some t) : t.Inv := by
  obtain ⟨acc, steps, s1, hloop, rfl⟩ := runFrame_some hr
  have h1 : s1.Inv := inv_busStable.frameLoop (fun _ => tick_keeps_inv) hloop h
  have h2 := serviceInjection_keeps_inv
    (s := { s1 with cpu := { s1.cpu with steps := steps }, fcarry := acc - s.params.frameBudget }) { h1 with }
  exact { h2 with }

theorem doReset_keeps_inv {s : State} (h : s.Inv) : (doReset s).Inv := by
  obtain ⟨hh, hv⟩ := h.frameSized
  have h1 : (resetComponents s).Inv :=
    { h with
      scanInFrame := ⟨hh, hv, Nat.zero_mod _⟩
      precount := ⟨Nat.zero_le _, Nat.zero_le _⟩ }
  exact inv_busStable.cpuReset _ h1

theorem setJoy_keeps_inv (p : Bool) (b : Button) {s : State} (h : s.Inv) : (setJoy p b s).Inv := by
  cases b <;> exact { h with }

theorem setLine_keeps_inv (k : ViaId) (level : Bool) (l : ControlLine) {s : State} (h : s.Inv) :
    (setLine k level l s).Inv := by
  cases k <;> cases l <;> exact { h with }

/-- R267, R268: the kept cells are those of the blocks that stay present. -/
theorem configureRam_keeps_inv (r : RamPreset) {s : State} (h : s.Inv) : (configureRam r s).Inv :=
  { h with
    memCanonical := filter_wf _ h.memCanonical
    cellsExist := fun c hc => by
      obtain ⟨hmem, hkept⟩ := List.mem_filter.mp hc
      exact storeExists_of_cellKept (h.cellsExist c hmem) hkept }

theorem loadCart_keeps_inv (a : Addr) (rst : Bool) (buf : List Byte) {s : State} (h : s.Inv) :
    (loadCart a rst buf s).Inv := by
  rcases loadCart_cases a rst buf s with he | ⟨c, image, hlen, he⟩
  · rwa [he]
  · have hset : State.Inv { s with cart := s.cart.set c (some image) } :=
      { h with cartSizes := cartLengthOk_set c h.cartSizes hlen }
    rw [he]
    split
    · exact doReset_keeps_inv hset
    · exact hset

theorem loadPrg_keeps_inv (buf : List Byte) (run : Bool) {s : State} (h : s.Inv) : (loadPrg buf run s).Inv := by
  unfold loadPrg
  split
  · rename_i lo hi data
    have hdata := inv_busStable.patchPtrs s.params.prgPtrs (word16 hi lo + BitVec.ofNat 16 data.length) _
      (inv_busStable.writeBytes (word16 hi lo) data s h)
    dsimp only
    split
    · exact { hdata with injection := injectionOk_start (by decide) }
    · exact hdata
  · exact h

theorem startInjection_keeps_inv (buf : List Byte) {s : State} (h : s.Inv) : (startInjection buf s).Inv :=
  { h with
    injection := injectionOk_start fun hzero => by simpa using List.mem_takeWhile_imp hzero }

/-! ### The step -/

theorem Effect.keeps_inv {s t : State} {i : Instr} (he : Effect s i t) (h : s.Inv) : t.Inv := by
  cases he with
  | read a => exact { busRead_keeps_inv a h with }
  | write a v => exact busWrite_keeps_inv a v h
  | video a => exact { h with }
  | tick => exact tick_keeps_inv h
  | frame hr => exact runFrame_keeps_inv h hr
  | reset => exact doReset_keeps_inv h
  | key p r c => exact { h with }
  | joy p b => exact setJoy_keeps_inv p b h
  | line k level l => exact setLine_keeps_inv k level l h
  | ramcfg r => exact configureRam_keeps_inv r h
  | cart a rst buf => exact loadCart_keeps_inv a rst buf h
  | prg run buf => exact loadPrg_keeps_inv buf run h
  | inject buf => exact startInjection_keeps_inv buf h

/-- Settles O56: every effect of an operation keeps the invariant, and taking the operation off the queue does. -/
theorem invariantIsKeptByEveryStep : Obligations.InvariantIsKeptByEveryStep := by
  intro s t h hstep
  rcases step_effect hstep with ⟨-, rfl⟩ | ⟨op, rest, i, -, -, he⟩
  · exact h
  · exact he.keeps_inv { h with }

end Sys2Proof.Machine
end

section
/-! The raster counted in pixel groups (R39, R215): a position in the frame is a line and a group of that line, and one
tick moves to the next group, around the frame. -/

namespace Sys2Proof.Machine

/-- The scan position lies in the frame, at the start of a pixel group (R39). -/
def ScanOnGroup (p : Config.Params) (v : Vic) : Prop :=
  v.hpos < p.htotal ∧ v.vpos < p.vtotal ∧ v.hpos % p.stride = 0

/-- Group `q` of a line begins before HTOTAL exactly when it is one of the line's groups. -/
theorem lt_groupsPerLine {p : Config.Params} (hs : 0 < p.stride) (q : Nat) :
    q < groupsPerLine p ↔ q * p.stride < p.htotal := by
  rw [groupsPerLine, ← Nat.succ_le_iff, Nat.le_div_iff_mul_le hs, Nat.succ_mul]
  omega

/-- A position is a line and a group `q` of that line, and its index counts the groups before it. -/
theorem ScanOnGroup.exists_group {p : Config.Params} {v : Vic} (hs : 0 < p.stride) (h : ScanOnGroup p v) :
    ∃ q < groupsPerLine p, v.hpos = q * p.stride ∧ scanIndex p v = v.vpos * groupsPerLine p + q := by
  obtain ⟨hh, -, hm⟩ := h
  have hq : v.hpos = v.hpos / p.stride * p.stride := (Nat.div_mul_cancel (Nat.dvd_of_mod_eq_zero hm)).symm
  exact ⟨v.hpos / p.stride, (lt_groupsPerLine hs _).mpr (hq ▸ hh), hq, rfl⟩

/-- The lines before line `y` and `q` more groups of it are fewer than the groups of the frame. -/
theorem group_lt_frame {p : Config.Params} {y q : Nat} (hy : y < p.vtotal) (hq : q < groupsPerLine p) :
    y * groupsPerLine p + q < groupsPerLine p * p.vtotal :=
  calc y * groupsPerLine p + q
    _ < (y + 1) * groupsPerLine p := by rw [Nat.succ_mul]; omega
    _ ≤ p.vtotal * groupsPerLine p := Nat.mul_le_mul_right _ hy
    _ = groupsPerLine p * p.vtotal := Nat.mul_comm _ _

theorem scanIndex_lt {p : Config.Params} {v : Vic} (hs : 0 < p.stride) (h : ScanOnGroup p v) :
    scanIndex p v < groupsPerLine p * p.vtotal := by
  obtain ⟨q, hq, -, hidx⟩ := h.exists_group hs
  rw [hidx]
  exact group_lt_frame h.2.1 hq

theorem ScanOnGroup.advanceScan {p : Config.Params} {v : Vic} (h : ScanOnGroup p v) :
    ScanOnGroup p (advanceScan p v) := by
  obtain ⟨hh, hv, hm⟩ := h
  exact advanceScan_inFrame p v (Nat.zero_lt_of_lt hh) (Nat.zero_lt_of_lt hv) hv hm

/-- R215: the next group of the line, the first of the next line, or the first of the frame. -/
theorem scanIndex_advanceScan {p : Config.Params} {v : Vic} (hs : 0 < p.stride) (h : ScanOnGroup p v) :
    scanIndex p (advanceScan p v) = (scanIndex p v + 1) % (groupsPerLine p * p.vtotal) := by
  obtain ⟨q, hq, hpos, hidx⟩ := h.exists_group hs
  obtain ⟨-, hv, -⟩ := h
  have hnext : v.hpos + p.stride < p.htotal ↔ q + 1 < groupsPerLine p := by
    rw [lt_groupsPerLine hs, Nat.succ_mul, hpos]
  rw [hidx]
  rcases advanceScan_cases p v with ⟨hin, he⟩ | ⟨hout, hline, he⟩ | ⟨hout, hlast, he⟩ <;> rw [he, scanIndex]
  · rw [Nat.add_assoc, Nat.mod_eq_of_lt (group_lt_frame hv (hnext.mp hin)), Nat.add_div_right _ hs, hpos,
      Nat.mul_div_cancel _ hs]
  · have hlastGroup : q + 1 = groupsPerLine p := by omega
    have hlt : (v.vpos + 1) * groupsPerLine p < groupsPerLine p * p.vtotal := group_lt_frame (q := 0) hline (by omega)
    rw [Nat.add_assoc, hlastGroup, ← Nat.add_one_mul, Nat.mod_eq_of_lt hlt, Nat.zero_div, Nat.add_zero]
  · have hlastGroup : q + 1 = groupsPerLine p := by omega
    have hlastLine : v.vpos + 1 = p.vtotal := by omega
    rw [Nat.add_assoc, hlastGroup, ← Nat.add_one_mul, hlastLine, Nat.mul_comm p.vtotal, Nat.mod_self, Nat.zero_mul,
      Nat.zero_div]

/-- The scan after `n` ticks. -/
theorem ticks_scan (n : Nat) (s : State) (hs : 0 < s.params.stride) (h : ScanOnGroup s.params s.vic) :
    scanIndex s.params (ticks n s).vic =
        (scanIndex s.params s.vic + n) % (groupsPerLine s.params * s.params.vtotal) ∧
      ScanOnGroup s.params (ticks n s).vic ∧ (ticks n s).vic.regs = s.vic.regs := by
  induction n generalizing s with
  | zero => exact ⟨(Nat.mod_eq_of_lt (scanIndex_lt hs h)).symm, h, rfl⟩
  | succ n ih =>
    have hnext := ih (tick s)
    rw [tick_params, tick_vic] at hnext
    obtain ⟨hidx, hgroup, hregs⟩ := hnext hs h.advanceScan
    refine ⟨?_, hgroup, hregs.trans (advanceScan_regs _ _)⟩
    calc scanIndex s.params (ticks n (tick s)).vic
      _ = ((scanIndex s.params s.vic + 1) % (groupsPerLine s.params * s.params.vtotal) + n) %
            (groupsPerLine s.params * s.params.vtotal) := by rw [hidx, scanIndex_advanceScan hs h]
      _ = _ := by rw [Nat.mod_add_mod, Nat.add_assoc, Nat.add_comm 1 n]

/-- Settles O38: the general frame by induction on the ticks, the default frame by its numbers. -/
theorem rasterAdvancesOneGroupPerTick : Obligations.RasterAdvancesOneGroupPerTick := by
  refine ⟨fun n s hs hh hv hm => ?_, rfl, rfl⟩
  obtain ⟨hidx, ⟨hh', hv', hm'⟩, hregs⟩ := ticks_scan n s hs ⟨hh, hv, hm⟩
  exact ⟨hidx, hh', hv', hm', hregs⟩

end Sys2Proof.Machine
end

section
/-! RESET and power-on (R320, R321, R323). -/

namespace Sys2Proof.Machine

/-- CpuReset of a CPU that makes no bus access in it: one more call counted (R322, log 15). -/
theorem cpuReset_noAccesses {s : State} (h : s.cpu.resetAccesses = []) :
    cpuReset s = { s with cpu := { s.cpu with resetCount := s.cpu.resetCount + 1 } } := by
  simp only [cpuReset, h]

/-- RESET with a CPU that makes no bus access in it: the reset components and the count (R320, R321). -/
theorem execReset_noAccesses {s : State} (h : s.cpu.resetAccesses = []) :
    exec .reset s =
      .next { resetComponents s with cpu := { s.cpu with resetCount := s.cpu.resetCount + 1 } } :=
  congrArg Host.Outcome.next (cpuReset_noAccesses (s := resetComponents s) h)

/-- R31: both cores of a reset block. -/
theorem resetComponents_via (s : State) (k : ViaId) : (resetComponents s).via k = Via.reset := by
  cases k <;> rfl

/-- R39: the video registers of a reset block. -/
theorem resetComponents_vicReg (s : State) (r : Fin 16) : (resetComponents s).vic.reg r = 0 := by
  simp [resetComponents, Vic.reset, Vic.reg]

/-- R26: the matrix of a reset block. -/
theorem resetComponents_kbd (s : State) (r c : Fin 8) : ((resetComponents s).kbd[r])[c] = false := by
  simp [resetComponents]

/-- Settles O54: the CPU's part of RESET adds to the count of calls and leaves the reset components; power-on is its
own reset but for that count. -/
theorem resetRestoresThePowerOnValues : Obligations.ResetRestoresThePowerOnValues := by
  refine ⟨fun s hs => ⟨_, execReset_noAccesses hs, fun k => ?_, resetComponents_vicReg s, rfl, rfl, rfl, rfl,
    resetComponents_kbd s, rfl⟩, ⟨2, execReset_noAccesses rfl⟩, fun _ => rfl, by decide, by decide, rfl⟩
  have hcore : State.via { resetComponents s with cpu := { s.cpu with resetCount := s.cpu.resetCount + 1 } } k =
      Via.reset := resetComponents_via s k
  rw [hcore]
  decide

end Sys2Proof.Machine
end

section
/-! The bus words and their rows (R44, R61, R93): the row the decoder gives has the word's address, and a well-formed
selected row is the one the decoder gives for its own address and data. -/

namespace Sys2Proof.Machine

/-! ### Bus words -/

theorem decodeOperands_rd (p : Presence) (a : Addr) (d : Byte) (buf : List Byte) :
    decodeOperands p 0 a d buf = .ok (rdRow (decodeAddr p a) a) := rfl

theorem decodeOperands_wr (p : Presence) (a : Addr) (d : Byte) (buf : List Byte) :
    decodeOperands p 1 a d buf = .ok (wrRow (decodeAddr p a) a d) := rfl

theorem decodeOperands_vrd (p : Presence) (a : Addr) (d : Byte) (buf : List Byte) :
    decodeOperands p 2 a d buf = .ok (vrdRow (decodeAddr p a) a) := rfl

/-- The operation selectors of the bus operations (R91). -/
theorem busOpc_cases : ∀ o : BitVec 5, o.toNat ≤ 2 → o = 0 ∨ o = 1 ∨ o = 2 := by decide

/-- A bus word with RSV 0 is decoded by its fields (R90, R95). -/
theorem decode_bus {p : Presence} {op : Op} (ho : (fieldOpc op.word).toNat ≤ 2) (hr : fieldRsv op.word = 0) :
    decode p op = decodeOperands p (fieldOpc op.word) (fieldAddr op.word) (fieldData op.word) op.buf := by
  unfold decode
  dsimp only
  rw [if_neg (by omega), if_neg (by omega), if_neg (by omega), if_neg (not_not_intro hr)]

/-- DATA is an operand of WR alone (R91, log 9). -/
theorem decodeOperands_congr_data {p : Presence} {o : BitVec 5} (ho : o.toNat ≤ 2) (a : Addr) {d e : Byte}
    (hde : o = 1 → d = e) (buf : List Byte) : decodeOperands p o a d buf = decodeOperands p o a e buf := by
  rcases busOpc_cases o ho with rfl | rfl | rfl
  · rfl
  · rw [hde rfl]
  · rfl

/-! ### The address of a row -/

theorem registerIndex_val (a : Addr) : (registerIndex a).val = a.toNat % 16 := by
  simp [registerIndex]

/-- An address of a 16-byte register window is the window's base and its register index (R92, R94). -/
theorem window_registerIndex {b a : Addr} (hb : b.toNat % 16 = 0) (h1 : b.toNat ≤ a.toNat)
    (h2 : a.toNat ≤ b.toNat + 15) : b + BitVec.ofNat 16 (registerIndex a).val = a := by
  apply BitVec.eq_of_toNat_eq
  rw [BitVec.toNat_add, BitVec.toNat_ofNat, registerIndex_val]
  omega

theorem vicAddr_registerIndex {a : Addr} (h1 : 0x9000 ≤ a.toNat) (h2 : a.toNat ≤ 0x900F) :
    vicAddr (registerIndex a) = a :=
  window_registerIndex (b := 0x9000) (by decide) h1 h2

theorem viaAddr_registerIndex_via1 {a : Addr} (h1 : 0x9110 ≤ a.toNat) (h2 : a.toNat ≤ 0x911F) :
    viaAddr .via1 (registerIndex a) = a :=
  window_registerIndex (b := 0x9110) (by decide) h1 h2

theorem viaAddr_registerIndex_via2 {a : Addr} (h1 : 0x9120 ≤ a.toNat) (h2 : a.toNat ≤ 0x912F) :
    viaAddr .via2 (registerIndex a) = a :=
  window_registerIndex (b := 0x9120) (by decide) h1 h2

theorem addrOf_rdVicRow (r : Fin 16) : addrOf (rdVicRow r) = vicAddr r := by
  fin_cases r <;> exact fieldAddr_mkWord ..

theorem addrOf_wrVicRow (r : Fin 16) (v : Byte) : addrOf (wrVicRow r v) = vicAddr r := by
  fin_cases r <;> exact fieldAddr_mkWord ..

theorem addrOf_rdViaRow (k : ViaId) (r : Fin 16) : addrOf (rdViaRow k r) = viaAddr k r := by
  cases k <;> fin_cases r <;> exact fieldAddr_mkWord ..

theorem addrOf_wrViaRow (k : ViaId) (r : Fin 16) (v : Byte) : addrOf (wrViaRow k r v) = viaAddr k r := by
  cases k <;> fin_cases r <;> exact fieldAddr_mkWord ..

/-- The RD row the decoder gives for an address carries that address. -/
theorem addrOf_rdRow {p : Presence} {a : Addr} {t : Target} (h : AddrCase p a t) : addrOf (rdRow t a) = a := by
  cases h with
  | cart c | expram c => fin_cases c <;> exact fieldAddr_mkWord ..
  | vic h1 h2 => exact (addrOf_rdVicRow _).trans (vicAddr_registerIndex h1 h2)
  | via1 h1 h2 => exact (addrOf_rdViaRow .via1 _).trans (viaAddr_registerIndex_via1 h1 h2)
  | via2 h1 h2 => exact (addrOf_rdViaRow .via2 _).trans (viaAddr_registerIndex_via2 h1 h2)
  | _ => exact fieldAddr_mkWord ..

theorem addrOf_wrRow {p : Presence} {a : Addr} {t : Target} (h : AddrCase p a t) (v : Byte) :
    addrOf (wrRow t a v) = a := by
  cases h with
  | cart c | expram c => fin_cases c <;> exact fieldAddr_mkWord ..
  | vic h1 h2 => exact (addrOf_wrVicRow _ v).trans (vicAddr_registerIndex h1 h2)
  | via1 h1 h2 => exact (addrOf_wrViaRow .via1 _ v).trans (viaAddr_registerIndex_via1 h1 h2)
  | via2 h1 h2 => exact (addrOf_wrViaRow .via2 _ v).trans (viaAddr_registerIndex_via2 h1 h2)
  | _ => exact fieldAddr_mkWord ..

/-- Every VRD row carries ADDR, the register windows included (R64). -/
theorem addrOf_vrdRow (t : Target) (a : Addr) : addrOf (vrdRow t a) = a := by
  cases t with
  | cart c => fin_cases c <;> exact fieldAddr_mkWord ..
  | expram b => fin_cases b <;> exact fieldAddr_mkWord ..
  | _ => exact fieldAddr_mkWord ..

/-- R93: every bus word with RSV 0 has a row, which carries the word's address. -/
theorem exists_decodeOperands_bus (p : Presence) {o : BitVec 5} (ho : o.toNat ≤ 2) (a : Addr) (d : Byte)
    (buf : List Byte) : ∃ i, decodeOperands p o a d buf = .ok i ∧ addrOf i = a := by
  have hrow := decodeAddr_case p a
  rcases busOpc_cases o ho with rfl | rfl | rfl
  · exact ⟨_, decodeOperands_rd p a d buf, addrOf_rdRow hrow⟩
  · exact ⟨_, decodeOperands_wr p a d buf, addrOf_wrRow hrow d⟩
  · exact ⟨_, decodeOperands_vrd p a d buf, addrOf_vrdRow _ a⟩

/-! ### The condition of a row and the decoder -/

theorem cartCovers_iff (p : Presence) (c : Fin 4) (base : Nat) (a : Addr) :
    p.cartCovers c base a = true ↔ ∃ len, p.cart[c] = some len ∧ a.toNat - base < len := by
  unfold Presence.cartCovers
  cases p.cart[c] <;> simp

theorem decodeAddr_ramLo (p : Presence) {a : Addr} (hw : AddrRange.covers .ramLo a = true) :
    decodeAddr p a = .ramLo :=
  decodeAddr_eq (.ramLo ((inRange_iff _ _ a).mp hw).2)

theorem decodeAddr_expram0 {p : Presence} {a : Addr} (hw : AddrRange.covers .expram0 a = true)
    (hs : p.exp[(0 : Fin 5)] = true) : decodeAddr p a = .expram 0 :=
  have ⟨h1, h2⟩ := (inRange_iff _ _ a).mp hw
  decodeAddr_eq (.expram0 h1 h2 hs)

theorem decodeAddr_ramMid (p : Presence) {a : Addr} (hw : AddrRange.covers .ramMid a = true) :
    decodeAddr p a = .ramMid :=
  have ⟨h1, h2⟩ := (inRange_iff _ _ a).mp hw
  decodeAddr_eq (.ramMid h1 h2)

theorem decodeAddr_romChar (p : Presence) {a : Addr} (hw : AddrRange.covers .romChar a = true) :
    decodeAddr p a = .romChar :=
  have ⟨h1, h2⟩ := (inRange_iff _ _ a).mp hw
  decodeAddr_eq (.romChar h1 h2)

theorem decodeAddr_vicWindow (p : Presence) {a : Addr} (hw : AddrRange.covers .vicWindow a = true) :
    decodeAddr p a = .vic (registerIndex a) :=
  have ⟨h1, h2⟩ := (inRange_iff _ _ a).mp hw
  decodeAddr_eq (.vic h1 h2)

/-- The two windows of R62, side by side. -/
theorem decodeAddr_viaWindows (p : Presence) {a : Addr} (hw : AddrRange.covers .viaWindows a = true) :
    ∃ k, decodeAddr p a = .via k (registerIndex a) := by
  obtain ⟨h1, h2⟩ := (inRange_iff _ _ a).mp hw
  by_cases h : a.toNat ≤ 0x911F
  · exact ⟨.via1, decodeAddr_eq (.via1 h1 h)⟩
  · exact ⟨.via2, decodeAddr_eq (.via2 (by omega) h2)⟩

theorem decodeAddr_colram (p : Presence) {a : Addr} (hw : AddrRange.covers .colram a = true) :
    decodeAddr p a = .colram :=
  have ⟨h1, h2⟩ := (inRange_iff _ _ a).mp hw
  decodeAddr_eq (.colram h1 h2)

theorem decodeAddr_romBasic (p : Presence) {a : Addr} (hw : AddrRange.covers .romBasic a = true) :
    decodeAddr p a = .romBasic :=
  have ⟨h1, h2⟩ := (inRange_iff _ _ a).mp hw
  decodeAddr_eq (.romBasic h1 h2)

theorem decodeAddr_romKernal (p : Presence) {a : Addr} (hw : AddrRange.covers .romKernal a = true) :
    decodeAddr p a = .romKernal :=
  decodeAddr_eq (.romKernal ((inRange_iff _ _ a).mp hw).1)

/-- A slot whose image reaches the address shadows its region (R61, R126). -/
theorem decodeAddr_cart {p : Presence} {a : Addr} (c : Fin 4)
    (hw : inRange (cartBase c) (cartBase c + 8191) a = true) (hs : p.cartCovers c (cartBase c) a = true) :
    decodeAddr p a = .cart c := by
  obtain ⟨len, hc, hlen⟩ := (cartCovers_iff p c _ a).mp hs
  obtain ⟨h1, h2⟩ := (inRange_iff _ _ a).mp hw
  exact decodeAddr_eq (.cart c len h1 (by omega) hc hlen)

/-- A present block behind an empty slot has its region (R61). -/
theorem decodeAddr_expram {p : Presence} {a : Addr} (c : Fin 4)
    (hw : inRange (cartBase c) (cartBase c + 8191) a = true)
    (hs : ((p.cart[c]).isNone && p.exp[c.succ]) = true) : decodeAddr p a = .expram c.succ := by
  obtain ⟨hc, hp⟩ := Bool.and_eq_true_iff.mp hs
  obtain ⟨h1, h2⟩ := (inRange_iff _ _ a).mp hw
  exact decodeAddr_eq (.expram c h1 (by omega) (Option.isNone_iff_eq_none.mp hc) hp)

/-- A region that gives the address a store claims it. -/
theorem claims_of_regionClaims {p : Presence} {a : Addr} (c : Fin 4) (h1 : cartBase c ≤ a.toNat)
    (h2 : a.toNat < cartBase c + 8192) (h : p.regionClaims c c.succ (cartBase c) a = true) : p.claims a = true := by
  simp only [Presence.claims, Bool.or_eq_true, Bool.and_eq_true, inRange_iff]
  rcases cartBase_cases c with ⟨rfl, hb⟩ | ⟨rfl, hb⟩ | ⟨rfl, hb⟩ | ⟨rfl, hb⟩ <;> rw [hb] at h1 h2
  · exact .inl (.inl (.inl (.inr ⟨by omega, h⟩)))
  · exact .inl (.inl (.inr ⟨by omega, h⟩))
  · exact .inl (.inr ⟨by omega, h⟩)
  · exact .inr ⟨by omega, h⟩

/-- An address that no row claims floats (R65, R133). -/
theorem decodeAddr_float {p : Presence} {a : Addr} (hw : AddrRange.covers .floating a = true)
    (hs : (!p.claims a) = true) : decodeAddr p a = .float := by
  have hno : ¬p.claims a = true := by simpa using hs
  have hregion : ∀ c, cartBase c ≤ a.toNat → a.toNat < cartBase c + 8192 →
      ¬p.regionClaims c c.succ (cartBase c) a = true := fun c h1 h2 h => hno (claims_of_regionClaims c h1 h2 h)
  simp only [AddrRange.covers, inHole, Bool.or_eq_true, inRange_iff] at hw
  have hrow := decodeAddr_case p a
  generalize decodeAddr p a = t at hrow
  cases hrow with
  | noExpram0 | pastCart | noExpram | hole => rfl
  | expram0 h1 h2 hp => exact absurd (by simp [Presence.claims, h1, h2, hp]) hno
  | cart c len h1 h2 hc hl =>
    exact absurd (by simp [Presence.regionClaims, Presence.cartCovers, hc, hl]) (hregion c h1 h2)
  | expram c h1 h2 hc hp =>
    exact absurd (by simp [Presence.regionClaims, hc, hp]) (hregion c h1 h2)
  | _ => omega

/-- R93: a well-formed bus row whose condition holds is the one the decoder gives for its fields. The memory rows have
their range and condition; a register row has one address. -/
theorem decodeOperands_encode {p : Presence} {j : Instr} (hw : j.wf = true) (hs : j.selected p = true)
    (ho : (fieldOpc (encodeWord j)).toNat ≤ 2) (buf : List Byte) :
    decodeOperands p (fieldOpc (encodeWord j)) (addrOf j) (fieldData (encodeWord j)) buf = .ok j := by
  simp only [addrOf]
  cases j with
  | rdRamLo a | wrRamLo a _ | vrdRamLo a =>
    simp [encodeWord, decodeOperands, rdRow, wrRow, vrdRow, decodeAddr_ramLo p hw]
  | rdExpram0 a | wrExpram0 a _ | vrdExpram0 a =>
    simp [encodeWord, decodeOperands, rdRow, wrRow, vrdRow, decodeAddr_expram0 hw hs]
  | rdRamMid a | wrRamMid a _ | vrdRamMid a =>
    simp [encodeWord, decodeOperands, rdRow, wrRow, vrdRow, decodeAddr_ramMid p hw]
  | rdCart0 a | wrCart0 a _ | vrdCart0 a =>
    simp [encodeWord, decodeOperands, rdRow, wrRow, vrdRow, decodeAddr_cart 0 hw hs]
  | rdExpram1 a | wrExpram1 a _ | vrdExpram1 a =>
    simp [encodeWord, decodeOperands, rdRow, wrRow, vrdRow, decodeAddr_expram 0 hw hs]
  | rdCart1 a | wrCart1 a _ | vrdCart1 a =>
    simp [encodeWord, decodeOperands, rdRow, wrRow, vrdRow, decodeAddr_cart 1 hw hs]
  | rdExpram2 a | wrExpram2 a _ | vrdExpram2 a =>
    simp [encodeWord, decodeOperands, rdRow, wrRow, vrdRow, decodeAddr_expram 1 hw hs]
  | rdCart2 a | wrCart2 a _ | vrdCart2 a =>
    simp [encodeWord, decodeOperands, rdRow, wrRow, vrdRow, decodeAddr_cart 2 hw hs]
  | rdExpram3 a | wrExpram3 a _ | vrdExpram3 a =>
    simp [encodeWord, decodeOperands, rdRow, wrRow, vrdRow, decodeAddr_expram 2 hw hs]
  | rdCart3 a | wrCart3 a _ | vrdCart3 a =>
    simp [encodeWord, decodeOperands, rdRow, wrRow, vrdRow, decodeAddr_cart 3 hw hs]
  | rdExpram4 a | wrExpram4 a _ | vrdExpram4 a =>
    simp [encodeWord, decodeOperands, rdRow, wrRow, vrdRow, decodeAddr_expram 3 hw hs]
  | rdRomChar a | wrRomChar a _ | vrdRomChar a =>
    simp [encodeWord, decodeOperands, rdRow, wrRow, vrdRow, decodeAddr_romChar p hw]
  | rdColram a | wrColram a _ | vrdColram a =>
    simp [encodeWord, decodeOperands, rdRow, wrRow, vrdRow, decodeAddr_colram p hw]
  | rdRomBasic a | wrRomBasic a _ | vrdRomBasic a =>
    simp [encodeWord, decodeOperands, rdRow, wrRow, vrdRow, decodeAddr_romBasic p hw]
  | rdRomKernal a | wrRomKernal a _ | vrdRomKernal a =>
    simp [encodeWord, decodeOperands, rdRow, wrRow, vrdRow, decodeAddr_romKernal p hw]
  | rdFloat a | wrFloat a _ | vrdFloat a =>
    simp [encodeWord, decodeOperands, rdRow, wrRow, vrdRow, decodeAddr_float hw hs]
  | vrdVicWindow a => simp [encodeWord, decodeOperands, vrdRow, decodeAddr_vicWindow p hw]
  | vrdViaWindows a =>
    obtain ⟨k, hrow⟩ := decodeAddr_viaWindows p hw
    simp [encodeWord, decodeOperands, vrdRow, hrow]
  | tick | frame | reset | key | joy | line | ramcfg | cart | prg | inject =>
    rw [encodeWord, fieldOpc_mkWord] at ho
    exact absurd ho (by decide)
  | reservedOpc13 rest =>
    rw [encodeWord, fieldOpc_reserved13] at ho
    exact absurd ho (by decide)
  | reservedOpc14to15 rest =>
    have := fieldOpc_reserved14to15_toNat rest
    simp only [encodeWord] at ho
    omega
  | reservedOpc16to31 rest =>
    have := fieldOpc_reserved16to31_toNat rest
    simp only [encodeWord] at ho
    omega
  | _ =>
    simp only [encodeWord, fieldOpc_mkWord, fieldAddr_mkWord, fieldData_mkWord]
    rfl

/-- Settles O3: the decoder's row has the word's address; a selected row with the word's fields decodes to itself from
them, and the decoder gives one row. -/
theorem everyBusWordSelectsExactlyOneRow : Obligations.EveryBusWordSelectsExactlyOneRow := by
  intro p op ho hr
  obtain ⟨i, hi, haddr⟩ := exists_decodeOperands_bus p ho (fieldAddr op.word) (fieldData op.word) op.buf
  refine ⟨i, (decode_bus ho hr).trans hi, haddr, fun j hw hs hopc hj hdata => ?_⟩
  have hself := decodeOperands_encode hw hs (hopc ▸ ho) op.buf
  rw [hopc, hj, decodeOperands_congr_data ho _ hdata, hi] at hself
  exact (Except.ok.inj hself).symm

end Sys2Proof.Machine
end

section
/-! The stores behind the two ports (R61, R65, R66, R71, R72): a byte of RAM against every other byte, the discarded
writes and the floating bus. -/

namespace Sys2Proof.Machine

/-! ### RAM -/

/-- A write to RAM reaches no other address: neither another cell, nor what the decoder gives there, nor a cartridge. -/
theorem videoRead_setRamByte_of_ne {a b : Addr} (hab : b ≠ a) (v : Byte) {s : State}
    (hwf : Memory.wf s.params.ramInit s.ram = true) : videoRead b (s.setRamByte a v) = videoRead b s := by
  have hram : (s.setRamByte a v).ramByte b = s.ramByte b := by
    rw [State.ramByte_setRamByte s a b v hwf, if_neg hab]
  simp only [videoRead, storeByte, State.setRamByte_target, hram, State.cartByte, State.setRamByte_cart]

/-- Settles O17: the write stores a byte and moves no target, so both ports find RAM at the address again. -/
theorem ramReadsBackWhatWasWritten : Obligations.RamReadsBackWhatWasWritten := by
  intro a v s hwf ht
  obtain ⟨-, -, hwrite⟩ := busAccess_ofRam a v s ht
  obtain ⟨hread, hvideo, -⟩ := busAccess_ofRam a v (s.setRamByte a v) ht
  have hbyte : (s.setRamByte a v).ramByte a = v := by rw [State.ramByte_setRamByte s a a v hwf, if_pos rfl]
  rw [hbyte] at hread hvideo
  rw [hwrite]
  exact ⟨hread, hvideo, fun b hb => videoRead_setRamByte_of_ne hb v hwf⟩

/-! ### What is not writable -/

/-- The targets that take a write; at a ROM, a cartridge or the floating bus it is discarded (R66). -/
def writable : Target → Bool
  | .ramLo | .expram _ | .ramMid | .vic _ | .via _ _ | .colram => true
  | .cart _ | .romChar | .romBasic | .romKernal | .float => false

theorem busWrite_of_not_writable {a : Addr} (v : Byte) {s : State} {t : Target} (h : s.target a = t)
    (ht : writable t = false) : busWrite a v s = s := by
  cases t with
  | cart | romChar | romBasic | romKernal | float => simp only [busWrite, h]
  | _ => cases ht

/-- Settles O16: each row is BusWrite of its address, and its range and condition give it a target that is not
writable. -/
theorem writesToReadOnlyTargetsChangeNothing : Obligations.WritesToReadOnlyTargetsChangeNothing := by
  intro a v s i hi hw hs
  simp only [List.mem_cons, List.not_mem_nil, or_false] at hi
  suffices hrow : exec i s = writeDone (busWrite a v s) ∧ busWrite a v s = s by
    obtain ⟨hexec, hsame⟩ := hrow
    rw [hexec, hsame, writeDone]
  rcases hi with rfl | rfl | rfl | rfl | rfl | rfl | rfl | rfl
  · exact ⟨rfl, busWrite_of_not_writable v (decodeAddr_romChar _ hw) rfl⟩
  · exact ⟨rfl, busWrite_of_not_writable v (decodeAddr_romBasic _ hw) rfl⟩
  · exact ⟨rfl, busWrite_of_not_writable v (decodeAddr_romKernal _ hw) rfl⟩
  · exact ⟨rfl, busWrite_of_not_writable v (decodeAddr_cart 0 hw hs) rfl⟩
  · exact ⟨rfl, busWrite_of_not_writable v (decodeAddr_cart 1 hw hs) rfl⟩
  · exact ⟨rfl, busWrite_of_not_writable v (decodeAddr_cart 2 hw hs) rfl⟩
  · exact ⟨rfl, busWrite_of_not_writable v (decodeAddr_cart 3 hw hs) rfl⟩
  · exact ⟨rfl, busWrite_of_not_writable v (decodeAddr_float hw hs) rfl⟩

/-! ### The floating bus -/

/-- The high byte of a 16-bit value as a number, v[15:8] (R8). -/
theorem hiByte_eq_ofNat (v : BitVec 16) : hiByte v = BitVec.ofNat 8 (v.toNat / 256) := by
  apply BitVec.eq_of_toNat_eq
  rw [hiByte, BitVec.extractLsb'_toNat, Nat.shiftRight_eq_div_pow, BitVec.toNat_ofNat]

/-- Settles O15: an address that nothing claims decodes to the floating bus, whose byte both ports give. -/
theorem unclaimedAddressesFloat : Obligations.UnclaimedAddressesFloat := by
  intro a v s hw hs
  obtain ⟨hread, hvideo, hwrite⟩ := busAccess_ofFloat a v s (decodeAddr_float hw hs)
  rw [hiByte_eq_ofNat] at hread hvideo
  have hrd : exec (.rdFloat a) s = readDone (busRead a s) := rfl
  have hvrd : exec (.vrdFloat a) s = videoDone a s := rfl
  have hwr : exec (.wrFloat a v) s = writeDone (busWrite a v s) := rfl
  rw [hrd, hvrd, hwr, hread, videoDone, hvideo, hwrite]
  exact ⟨rfl, rfl, rfl⟩

end Sys2Proof.Machine
end

section
/-! The operation decoder after the encoder (R90 to R93): the words with an operand form, the operands of the non-bus
operations read back, and the three reserved rows. -/

namespace Sys2Proof.Machine

/-! ### The words that have operands -/

/-- A word of OPC 0 to 12 with RSV 0 is decoded by its fields (R90, R91, R95). -/
theorem decode_fields {p : Presence} {op : Op} (ho : (fieldOpc op.word).toNat ≤ 12) (hr : fieldRsv op.word = 0) :
    decode p op = decodeOperands p (fieldOpc op.word) (fieldAddr op.word) (fieldData op.word) op.buf := by
  unfold decode
  dsimp only
  rw [if_neg (by omega), if_neg (by omega), if_neg (by omega), if_neg (not_not_intro hr)]

theorem decode_mkWord (p : Presence) {o : BitVec 5} (ho : o.toNat ≤ 12) (a : Addr) (d : Byte) (buf : List Byte) :
    decode p ⟨mkWord o a d, buf⟩ = decodeOperands p o a d buf := by
  have hfields := decode_fields (p := p) (op := ⟨mkWord o a d, buf⟩)
  simp only [fieldOpc_mkWord, fieldRsv_mkWord, fieldAddr_mkWord, fieldData_mkWord] at hfields
  exact hfields ho trivial

/-- Every row but the reserved ones is encoded with RSV 0 (R90, R91). -/
theorem fieldRsv_encodeWord {i : Instr} (ho : (fieldOpc (encodeWord i)).toNat ≤ 12) :
    fieldRsv (encodeWord i) = 0 := by
  cases i with
  | reservedOpc13 rest =>
    rw [encodeWord, fieldOpc_reserved13] at ho
    exact absurd ho (by decide)
  | reservedOpc14to15 rest =>
    have := fieldOpc_reserved14to15_toNat rest
    simp only [encodeWord] at ho
    omega
  | reservedOpc16to31 rest =>
    have := fieldOpc_reserved16to31_toNat rest
    simp only [encodeWord] at ho
    omega
  | _ => exact fieldRsv_mkWord ..

/-- R93: a well-formed selected bus row is the one its word decodes to. -/
theorem decode_encode_bus {p : Presence} {i : Instr} (hw : i.wf = true) (hs : i.selected p = true)
    (ho : (fieldOpc (encodeWord i)).toNat ≤ 2) : decode p (encode i) = .ok i :=
  (decode_bus (op := encode i) ho (fieldRsv_encodeWord (ho.trans (by decide)))).trans
    (decodeOperands_encode hw hs ho (encodeBuf i))

/-! ### Operands read back -/

/-- A flag in ADDR[0] leaves the other bits clear and is read back (R91). -/
theorem flagAddr_fields (b : Bool) : flagAddr b &&& 0xFFFE = 0 ∧ (flagAddr b).getLsbD 0 = b := by
  revert b
  decide

theorem flagByte_fields (b : Bool) : flagByte b &&& 0xFE = 0 ∧ (flagByte b).getLsbD 0 = b := by
  revert b
  decide

/-- KEY's row and column in DATA[5:0] (R92). -/
theorem keyData_fields : ∀ r c : Fin 8,
    let d : Byte := 0#2 ++ BitVec.ofFin (w := 3) r ++ BitVec.ofFin (w := 3) c
    d &&& 0xC0 = 0 ∧ (d.extractLsb' 3 3).toFin = r ∧ (d.extractLsb' 0 3).toFin = c := by
  decide

/-- A 3-bit code in DATA[2:0]: JOY's button and RAMCFG's preset (R92). -/
theorem code3_fields : ∀ n : BitVec 3,
    let d : Byte := 0#5 ++ n
    d &&& 0xF8 = 0 ∧ d.extractLsb' 0 3 = n := by
  decide

/-- LINE's control line in DATA[1:0] (R92). -/
theorem code2_fields : ∀ n : BitVec 2,
    let d : Byte := 0#6 ++ n
    d &&& 0xFC = 0 ∧ d.extractLsb' 0 2 = n := by
  decide

/-- LINE's core in ADDR[8] and its level in ADDR[0] (R91). -/
theorem lineAddr_fields (k : ViaId) (level : Bool) :
    let a : Addr := k.addrBit ||| flagAddr level
    a &&& 0xFEFE = 0 ∧ (if a.getLsbD 8 then ViaId.via2 else .via1) = k ∧ a.getLsbD 0 = level := by
  cases k <;> revert level <;> decide

/-! ### The reserved rows -/

theorem decode_encode_reserved13 (p : Presence) (rest : BitVec 27) :
    decode p (encode (.reservedOpc13 rest)) = .ok (.reservedOpc13 rest) := by
  have ho : fieldOpc (encode (.reservedOpc13 rest)).word = 13 := fieldOpc_reserved13 rest
  have hrest : (encode (.reservedOpc13 rest)).word.extractLsb' 0 27 = rest := BitVec.extractLsb'_append_eq_right
  simp [decode, ho, hrest]

theorem decode_encode_reserved14to15 (p : Presence) (rest : BitVec 28) :
    decode p (encode (.reservedOpc14to15 rest)) = .ok (.reservedOpc14to15 rest) := by
  obtain ⟨hlo, hhi⟩ := fieldOpc_reserved14to15_toNat rest
  have hrest : (7#4 ++ rest : BitVec 32).extractLsb' 0 28 = rest := BitVec.extractLsb'_append_eq_right
  simp only [decode, encode, encodeWord, hrest, if_neg (Nat.not_le.mpr hhi), if_pos hlo]

theorem decode_encode_reserved16to31 (p : Presence) (rest : BitVec 31) :
    decode p (encode (.reservedOpc16to31 rest)) = .ok (.reservedOpc16to31 rest) := by
  have hrest : (1#1 ++ rest : BitVec 32).extractLsb' 0 31 = rest := BitVec.extractLsb'_append_eq_right
  simp only [decode, encode, encodeWord, hrest, if_pos (fieldOpc_reserved16to31_toNat rest)]

/-! ### The round trip -/

/-- Settles O1: a bus row by its address and condition, a non-bus operation by its operands read back, a reserved row
by the bits below its selector. -/
theorem decodeOfEncodeIsIdentity : Obligations.DecodeOfEncodeIsIdentity := by
  intro p i hw hs
  cases i with
  | tick | frame | reset | inject => exact decode_mkWord p (by decide) ..
  | key pressed r c =>
    obtain ⟨hstray, hflag⟩ := flagAddr_fields pressed
    obtain ⟨hclear, hr, hc⟩ := keyData_fields r c
    refine (decode_mkWord p (by decide) ..).trans ?_
    simp only [decodeOperands, hstray, hclear, hflag, hr, hc]
    rfl
  | joy pressed button =>
    obtain ⟨hstray, hflag⟩ := flagAddr_fields pressed
    obtain ⟨hclear, hcode⟩ := code3_fields button.code
    refine (decode_mkWord p (by decide) ..).trans ?_
    simp only [decodeOperands, hstray, hclear, hflag, hcode, buttonOf_code]
    rfl
  | line via level l =>
    obtain ⟨hstray, hvia, hlevel⟩ := lineAddr_fields via level
    obtain ⟨hclear, hcode⟩ := code2_fields l.code
    refine (decode_mkWord p (by decide) ..).trans ?_
    simp only [decodeOperands, hstray, hclear, hvia, hlevel, hcode, controlLineOf_code]
    rfl
  | ramcfg preset =>
    obtain ⟨hclear, hcode⟩ := code3_fields preset.code
    refine (decode_mkWord p (by decide) ..).trans ?_
    simp only [decodeOperands, hclear, hcode, ramPresetOf_code]
    rfl
  | cart _ flag | prg flag =>
    obtain ⟨hclear, hflag⟩ := flagByte_fields flag
    refine (decode_mkWord p (by decide) ..).trans ?_
    simp only [decodeOperands, hclear, hflag]
    rfl
  | reservedOpc13 rest => exact decode_encode_reserved13 p rest
  | reservedOpc14to15 rest => exact decode_encode_reserved14to15 p rest
  | reservedOpc16to31 rest => exact decode_encode_reserved16to31 p rest
  | _ => exact decode_encode_bus hw hs (by rw [encodeWord, fieldOpc_mkWord]; decide)

end Sys2Proof.Machine
end

section
/-! The bus rows run (R91, R93, R120, R121): a RD row is BusRead of its address and a WR row BusWrite of its address
and data. Some presence selects the row, so it is the row of a target the address decodes to. -/

namespace Sys2Proof.Machine

/-! ### A presence for every row -/

/-- Every expansion block is present and no cartridge. -/
def expansionRamPresence : Presence := { exp := Vector.replicate 5 true, cart := Vector.replicate 4 none }

/-- A cartridge in every slot whose image reaches every address. -/
def cartridgePresence : Presence :=
  { exp := Vector.replicate 5 false, cart := Vector.replicate 4 (some 65536) }

theorem cartridgePresence_covers (c : Fin 4) (base : Nat) (a : Addr) :
    cartridgePresence.cartCovers c base a = true :=
  (cartCovers_iff _ c base a).mpr ⟨65536, by simp [cartridgePresence], by omega⟩

/-- Nothing conditional claims an address of the power-on machine (R61, R65). -/
theorem not_claims_empty (a : Addr) : (!Presence.empty.claims a) = true := by
  simp [Presence.claims, Presence.regionClaims, Presence.cartCovers, Presence.empty]

/-- R93: no row is without a presence that selects it. -/
theorem exists_selected (i : Instr) : ∃ p, i.selected p = true := by
  cases i with
  | rdExpram0 | rdExpram1 | rdExpram2 | rdExpram3 | rdExpram4 | wrExpram0 | wrExpram1 | wrExpram2 | wrExpram3
  | wrExpram4 | vrdExpram0 | vrdExpram1 | vrdExpram2 | vrdExpram3 | vrdExpram4 => exact ⟨expansionRamPresence, rfl⟩
  | rdCart0 | rdCart1 | rdCart2 | rdCart3 | wrCart0 | wrCart1 | wrCart2 | wrCart3 | vrdCart0
  | vrdCart1 | vrdCart2 | vrdCart3 =>
    exact ⟨cartridgePresence, by rw [Instr.selected]; exact cartridgePresence_covers ..⟩
  | rdFloat a | wrFloat a | vrdFloat a => exact ⟨Presence.empty, not_claims_empty a⟩
  | _ => exact ⟨Presence.empty, rfl⟩

/-- A well-formed RD row is the RD row of a target that its address decodes to under some presence. -/
theorem exists_eq_rdRow {i : Instr} (ho : fieldOpc (encodeWord i) = 0) (hw : i.wf = true) :
    ∃ p, i = rdRow (decodeAddr p (addrOf i)) (addrOf i) := by
  obtain ⟨p, hs⟩ := exists_selected i
  have hrow := decodeOperands_encode hw hs (by rw [ho]; decide) []
  rw [ho] at hrow
  exact ⟨p, (Except.ok.inj hrow).symm⟩

theorem exists_eq_wrRow {i : Instr} (ho : fieldOpc (encodeWord i) = 1) (hw : i.wf = true) :
    ∃ p, i = wrRow (decodeAddr p (addrOf i)) (addrOf i) (fieldData (encodeWord i)) := by
  obtain ⟨p, hs⟩ := exists_selected i
  have hrow := decodeOperands_encode hw hs (by rw [ho]; decide) []
  rw [ho] at hrow
  exact ⟨p, (Except.ok.inj hrow).symm⟩

/-! ### The rows of a target -/

theorem exec_rdVicRow (r : Fin 16) (s : State) : exec (rdVicRow r) s = readDone (busRead (vicAddr r) s) := by
  rw [← vicRead_eq_busRead]
  fin_cases r <;> rfl

theorem exec_rdViaRow (k : ViaId) (r : Fin 16) (s : State) :
    exec (rdViaRow k r) s = readDone (busRead (viaAddr k r) s) := by
  rw [← viaRead_eq_busRead]
  cases k <;> fin_cases r <;> rfl

theorem exec_wrVicRow (r : Fin 16) (v : Byte) (s : State) :
    exec (wrVicRow r v) s = writeDone (busWrite (vicAddr r) v s) := by
  rw [← vicWrite_eq_busWrite]
  fin_cases r <;> rfl

theorem exec_wrViaRow (k : ViaId) (r : Fin 16) (v : Byte) (s : State) :
    exec (wrViaRow k r v) s = writeDone (busWrite (viaAddr k r) v s) := by
  rw [← viaWrite_eq_busWrite]
  cases k <;> fin_cases r <;> rfl

/-- The RD row of an address's target completes as BusRead of the address, whatever the present configuration. -/
theorem exec_rdRow {p : Presence} {a : Addr} {t : Target} (h : AddrCase p a t) (s : State) :
    exec (rdRow t a) s = readDone (busRead a s) := by
  cases h with
  | cart c | expram c => fin_cases c <;> rfl
  | vic h1 h2 =>
    have hrow := exec_rdVicRow (registerIndex a) s
    rwa [vicAddr_registerIndex h1 h2] at hrow
  | via1 h1 h2 =>
    have hrow := exec_rdViaRow .via1 (registerIndex a) s
    rwa [viaAddr_registerIndex_via1 h1 h2] at hrow
  | via2 h1 h2 =>
    have hrow := exec_rdViaRow .via2 (registerIndex a) s
    rwa [viaAddr_registerIndex_via2 h1 h2] at hrow
  | _ => rfl

theorem exec_wrRow {p : Presence} {a : Addr} {t : Target} (h : AddrCase p a t) (v : Byte) (s : State) :
    exec (wrRow t a v) s = writeDone (busWrite a v s) := by
  cases h with
  | cart c | expram c => fin_cases c <;> rfl
  | vic h1 h2 =>
    have hrow := exec_wrVicRow (registerIndex a) v s
    rwa [vicAddr_registerIndex h1 h2] at hrow
  | via1 h1 h2 =>
    have hrow := exec_wrViaRow .via1 (registerIndex a) v s
    rwa [viaAddr_registerIndex_via1 h1 h2] at hrow
  | via2 h1 h2 =>
    have hrow := exec_wrViaRow .via2 (registerIndex a) v s
    rwa [viaAddr_registerIndex_via2 h1 h2] at hrow
  | _ => rfl

/-- Settles O8: the row is that of a target its address decodes to, and such a row is BusRead of the address. -/
theorem readRowsAreBusReads : Obligations.ReadRowsAreBusReads := by
  intro i s ho hw
  obtain ⟨p, hi⟩ := exists_eq_rdRow ho hw
  have hexec := exec_rdRow (decodeAddr_case p (addrOf i)) s
  rwa [← hi] at hexec

/-- Settles O9, as O8 with the data byte. -/
theorem writeRowsAreBusWrites : Obligations.WriteRowsAreBusWrites := by
  intro i s ho hw
  obtain ⟨p, hi⟩ := exists_eq_wrRow ho hw
  have hexec := exec_wrRow (decodeAddr_case p (addrOf i)) (fieldData (encodeWord i)) s
  rwa [← hi] at hexec

end Sys2Proof.Machine
end

section
/-! The operation decoder before the encoder (R90 to R95): the row a word decodes to is well formed, selected and
encodes to the word, with the DATA byte of RD and VRD cleared (log 9). -/

namespace Sys2Proof.Machine

/-! ### Masked words -/

/-- The fields of a masked word, one by one (R90). -/
theorem mkWord_and (o k : BitVec 5) (r : BitVec 3) (a m : Addr) (d n : Byte) :
    mkWord o a d &&& (k ++ r ++ m ++ n : BitVec 32) = mkWord (o &&& k) (a &&& m) (d &&& n) := by
  apply BitVec.eq_of_getLsbD_eq
  intro i hi
  simp only [mkWord, BitVec.getLsbD_and, BitVec.getLsbD_append]
  repeat' split
  all_goals simp

/-- A word with its DATA byte cleared (log 9). -/
theorem mkWord_clearData (o : BitVec 5) (a : Addr) (d : Byte) : mkWord o a d &&& 0xFFFFFF00 = mkWord o a 0 := by
  have h := mkWord_and o (BitVec.allOnes 5) 7 a (BitVec.allOnes 16) d 0#8
  rwa [BitVec.and_allOnes, BitVec.and_allOnes, BitVec.and_zero] at h

/-! ### The rows of a target -/

/-- A built word names its address by its own ADDR field. -/
theorem eq_mkWord_fieldAddr {w : OpWord} {o : BitVec 5} {a : Addr} {d : Byte} (h : w = mkWord o a d) :
    w = mkWord o (fieldAddr w) d := by
  subst h
  rw [fieldAddr_mkWord]

theorem encodeWord_rdRow (t : Target) (a : Addr) : encodeWord (rdRow t a) = mkWord 0 (addrOf (rdRow t a)) 0 := by
  cases t with
  | cart c => fin_cases c <;> exact eq_mkWord_fieldAddr rfl
  | expram b => fin_cases b <;> exact eq_mkWord_fieldAddr rfl
  | vic r => fin_cases r <;> exact eq_mkWord_fieldAddr rfl
  | via k r => cases k <;> fin_cases r <;> exact eq_mkWord_fieldAddr rfl
  | _ => exact eq_mkWord_fieldAddr rfl

theorem encodeWord_wrRow (t : Target) (a : Addr) (v : Byte) :
    encodeWord (wrRow t a v) = mkWord 1 (addrOf (wrRow t a v)) v := by
  cases t with
  | cart c => fin_cases c <;> exact eq_mkWord_fieldAddr rfl
  | expram b => fin_cases b <;> exact eq_mkWord_fieldAddr rfl
  | vic r => fin_cases r <;> exact eq_mkWord_fieldAddr rfl
  | via k r => cases k <;> fin_cases r <;> exact eq_mkWord_fieldAddr rfl
  | _ => exact eq_mkWord_fieldAddr rfl

theorem encodeWord_vrdRow (t : Target) (a : Addr) : encodeWord (vrdRow t a) = mkWord 2 (addrOf (vrdRow t a)) 0 := by
  cases t with
  | cart c => fin_cases c <;> exact eq_mkWord_fieldAddr rfl
  | expram b => fin_cases b <;> exact eq_mkWord_fieldAddr rfl
  | _ => exact eq_mkWord_fieldAddr rfl

/-! ### The range and the condition of a decoded row -/

/-- A region that claims an address gives it a store (R61, R126). -/
theorem decodeAddr_ne_float_of_regionClaims {p : Presence} {a : Addr} (c : Fin 4)
    (hw : inRange (cartBase c) (cartBase c + 8191) a = true) (h : p.regionClaims c c.succ (cartBase c) a = true) :
    decodeAddr p a ≠ .float := by
  rcases Bool.or_eq_true_iff.mp h with hcart | hram
  · rw [decodeAddr_cart c hw hcart]
    nofun
  · rw [decodeAddr_expram c hw hram]
    nofun

/-- A conditional row that claims an address gives it a store (R61, R65). -/
theorem decodeAddr_ne_float_of_claims {p : Presence} {a : Addr} (h : p.claims a = true) :
    decodeAddr p a ≠ .float := by
  simp only [Presence.claims, Bool.or_eq_true, Bool.and_eq_true] at h
  rcases h with (((⟨hw, hp⟩ | ⟨hw, hp⟩) | ⟨hw, hp⟩) | ⟨hw, hp⟩) | ⟨hw, hp⟩
  · rw [decodeAddr_expram0 hw hp]
    nofun
  · exact decodeAddr_ne_float_of_regionClaims 0 hw hp
  · exact decodeAddr_ne_float_of_regionClaims 1 hw hp
  · exact decodeAddr_ne_float_of_regionClaims 2 hw hp
  · exact decodeAddr_ne_float_of_regionClaims 3 hw hp

/-- An address that floats is in a hole or in a conditional row, and nothing claims it (R65, R133). -/
theorem float_row {p : Presence} {a : Addr} (h : AddrCase p a .float) :
    AddrRange.covers .floating a = true ∧ (!p.claims a) = true := by
  refine ⟨?_, ?_⟩
  · simp only [AddrRange.covers, Bool.or_eq_true, inRange_iff]
    cases h with
    | noExpram0 h1 h2 => exact .inl (.inl (.inr ⟨h1, h2⟩))
    | hole h => exact .inl (.inl (.inl h))
    | pastCart c _ h1 h2 | noExpram c h1 h2 => rcases cartBase_cases c with h | h | h | h <;> omega
  · rw [Bool.not_eq_true', Bool.eq_false_iff]
    exact fun hc => decodeAddr_ne_float_of_claims hc (decodeAddr_eq h)

/-- R93: the RD row the decoder gives for an address is well formed and its condition holds. -/
theorem rdRow_wf_selected {p : Presence} {a : Addr} {t : Target} (h : AddrCase p a t) :
    (rdRow t a).wf = true ∧ (rdRow t a).selected p = true := by
  have hfloat := fun ht : t = .float => float_row (ht ▸ h)
  cases h with
  | noExpram0 | pastCart | noExpram | hole => exact hfloat rfl
  | ramLo h1 => exact ⟨(inRange_iff ..).mpr ⟨Nat.zero_le _, h1⟩, rfl⟩
  | expram0 h1 h2 hp => exact ⟨(inRange_iff ..).mpr ⟨h1, h2⟩, hp⟩
  | ramMid h1 h2 | romChar h1 h2 | colram h1 h2 | romBasic h1 h2 =>
    exact ⟨(inRange_iff ..).mpr ⟨h1, h2⟩, rfl⟩
  | romKernal h1 => exact ⟨(inRange_iff ..).mpr ⟨h1, by omega⟩, rfl⟩
  | cart c len h1 h2 hc hl =>
    have hrange : inRange (cartBase c) (cartBase c + 8191) a = true := (inRange_iff ..).mpr ⟨h1, by omega⟩
    have hcovers := (cartCovers_iff p c (cartBase c) a).mpr ⟨len, hc, hl⟩
    fin_cases c <;> exact ⟨hrange, hcovers⟩
  | expram c h1 h2 hc hp =>
    have hrange : inRange (cartBase c) (cartBase c + 8191) a = true := (inRange_iff ..).mpr ⟨h1, by omega⟩
    have hram : ((p.cart[c]).isNone && p.exp[c.succ]) = true := by rw [hc, hp]; rfl
    fin_cases c <;> exact ⟨hrange, hram⟩
  | vic | via1 | via2 =>
    generalize registerIndex a = r
    fin_cases r <;> exact ⟨rfl, rfl⟩

/-- The WR row of a target has the range and the condition of its RD row. -/
theorem wrRow_wf_selected {p : Presence} {a : Addr} {t : Target} (h : AddrCase p a t) (v : Byte) :
    (wrRow t a v).wf = true ∧ (wrRow t a v).selected p = true := by
  have hrd := rdRow_wf_selected h
  cases h with
  | cart c | expram c => fin_cases c <;> exact hrd
  | vic | via1 | via2 =>
    generalize registerIndex a = r
    fin_cases r <;> exact ⟨rfl, rfl⟩
  | _ => exact hrd

/-- So has the VRD row, but for the register windows, which are rows with a range (R64). -/
theorem vrdRow_wf_selected {p : Presence} {a : Addr} {t : Target} (h : AddrCase p a t) :
    (vrdRow t a).wf = true ∧ (vrdRow t a).selected p = true := by
  have hrd := rdRow_wf_selected h
  cases h with
  | cart c | expram c => fin_cases c <;> exact hrd
  | vic h1 h2 | via1 h1 h2 | via2 h1 h2 => exact ⟨(inRange_iff ..).mpr ⟨by omega, by omega⟩, rfl⟩
  | _ => exact hrd

/-! ### Operands written back -/

/-- A bit that a mask clears. -/
theorem getLsbD_eq_false_of_and_eq_zero {w : Nat} {x m : BitVec w} (h : x &&& m = 0) {i : Nat}
    (hm : m.getLsbD i = true) : x.getLsbD i = false := by
  have hi := congrArg (fun y : BitVec w => y.getLsbD i) h
  simpa [hm] using hi

theorem flagAddr_getLsbD (b : Bool) (i : Nat) : (flagAddr b).getLsbD i = (decide (i = 0) && b) := by
  cases b <;> simp [flagAddr, BitVec.getLsbD_one]

theorem addrBit_getLsbD (k : ViaId) (i : Nat) :
    k.addrBit.getLsbD i = (decide (i = 8) && decide (k = .via2)) := by
  cases k with
  | via1 => simp [ViaId.addrBit]
  | via2 => simp [ViaId.addrBit, show (0x0100 : Addr) = BitVec.twoPow 16 8 from rfl, BitVec.getLsbD_twoPow, eq_comm]

/-- ADDR with nothing but its flag (R91). -/
theorem flagAddr_eq {a : Addr} (h : a &&& 0xFFFE = 0) : flagAddr (a.getLsbD 0) = a := by
  apply BitVec.eq_of_getLsbD_eq
  intro i hi
  rw [flagAddr_getLsbD]
  by_cases h0 : i = 0
  · simp [h0]
  · have hmask : ∀ j : Fin 16, j.val ≠ 0 → (0xFFFE : Addr).getLsbD j = true := by decide
    simp [h0, getLsbD_eq_false_of_and_eq_zero h (hmask ⟨i, hi⟩ h0)]

/-- ADDR with nothing but LINE's core and level (R91). -/
theorem lineAddr_eq {a : Addr} (h : a &&& 0xFEFE = 0) :
    (if a.getLsbD 8 then ViaId.via2 else .via1).addrBit ||| flagAddr (a.getLsbD 0) = a := by
  apply BitVec.eq_of_getLsbD_eq
  intro i hi
  rw [BitVec.getLsbD_or, addrBit_getLsbD, flagAddr_getLsbD]
  by_cases h0 : i = 0
  · simp [h0]
  by_cases h8 : i = 8
  · simp [h8]
  · have hmask : ∀ j : Fin 16, j.val ≠ 0 → j.val ≠ 8 → (0xFEFE : Addr).getLsbD j = true := by decide
    simp [h0, h8, getLsbD_eq_false_of_and_eq_zero h (hmask ⟨i, hi⟩ h0 h8)]

/-- DATA with nothing but its flag (R91). -/
theorem flagByte_eq : ∀ d : Byte, d &&& 0xFE = 0 → flagByte (d.getLsbD 0) = d := by decide

/-- DATA with nothing but KEY's row and column (R92). -/
theorem keyData_eq : ∀ d : Byte, d &&& 0xC0 = 0 →
    0#2 ++ BitVec.ofFin (d.extractLsb' 3 3).toFin ++ BitVec.ofFin (d.extractLsb' 0 3).toFin = d := by
  decide

/-- DATA with nothing but a 3-bit code or a 2-bit code (R92). -/
theorem code3_eq : ∀ d : Byte, d &&& 0xF8 = 0 → 0#5 ++ d.extractLsb' 0 3 = d := by decide

theorem code2_eq : ∀ d : Byte, d &&& 0xFC = 0 → 0#6 ++ d.extractLsb' 0 2 = d := by decide

/-! ### The non-bus operations of a word -/

/-- The non-bus operations, each with the operand bits that must be clear (R91, R92, R95). -/
inductive OperandCase (a : Addr) (d : Byte) (buf : List Byte) : BitVec 5 → Instr → Prop where
  | tick (ha : a = 0) (hd : d = 0) : OperandCase a d buf 3 .tick
  | frame (ha : a = 0) (hd : d = 0) : OperandCase a d buf 4 .frame
  | reset (ha : a = 0) (hd : d = 0) : OperandCase a d buf 5 .reset
  | key (ha : a &&& 0xFFFE = 0) (hd : d &&& 0xC0 = 0) :
      OperandCase a d buf 6 (.key (a.getLsbD 0) (d.extractLsb' 3 3).toFin (d.extractLsb' 0 3).toFin)
  | joy (b : Button) (hb : buttonOf (d.extractLsb' 0 3) = some b) (ha : a &&& 0xFFFE = 0) (hd : d &&& 0xF8 = 0) :
      OperandCase a d buf 7 (.joy (a.getLsbD 0) b)
  | line (ha : a &&& 0xFEFE = 0) (hd : d &&& 0xFC = 0) :
      OperandCase a d buf 8
        (.line (if a.getLsbD 8 then .via2 else .via1) (a.getLsbD 0) (controlLineOf (d.extractLsb' 0 2)))
  | ramcfg (ha : a = 0) (hd : d &&& 0xF8 = 0) :
      OperandCase a d buf 9 (.ramcfg (ramPresetOf (d.extractLsb' 0 3)))
  | cart (hd : d &&& 0xFE = 0) : OperandCase a d buf 10 (.cart a (d.getLsbD 0) buf)
  | prg (ha : a = 0) (hd : d &&& 0xFE = 0) : OperandCase a d buf 11 (.prg (d.getLsbD 0) buf)
  | inject (ha : a = 0) (hd : d = 0) : OperandCase a d buf 12 (.inject buf)

/-- A strict row is decoded exactly when no operand bit strays (R95). -/
theorem strict_eq_ok {clean : Bool} {i j : Instr} : strict clean i = .ok j ↔ clean = true ∧ i = j := by
  cases clean <;> simp [strict]

theorem strict_both_eq_ok {m n : Nat} {x : BitVec m} {y : BitVec n} {i j : Instr} :
    strict (x == 0 && y == 0) i = .ok j ↔ x = 0 ∧ y = 0 ∧ i = j := by
  rw [strict_eq_ok, Bool.and_eq_true, beq_iff_eq, beq_iff_eq, and_assoc]

theorem strict_one_eq_ok {n : Nat} {y : BitVec n} {i j : Instr} : strict (y == 0) i = .ok j ↔ y = 0 ∧ i = j := by
  rw [strict_eq_ok, beq_iff_eq]

theorem decodeOperands_joy_eq_ok {p : Presence} {a : Addr} {d : Byte} {buf : List Byte} {i : Instr} :
    decodeOperands p 7 a d buf = .ok i ↔
      ∃ b, buttonOf (d.extractLsb' 0 3) = some b ∧ a &&& 0xFFFE = 0 ∧ d &&& 0xF8 = 0 ∧ .joy (a.getLsbD 0) b = i := by
  simp only [decodeOperands]
  cases buttonOf (d.extractLsb' 0 3) with
  | none => simp
  | some b =>
    simp only [Option.some.injEq, exists_eq_left']
    exact strict_both_eq_ok

/-- The operation selectors of R91. -/
theorem opc_cases : ∀ o : BitVec 5, o.toNat ≤ 12 →
    o.toNat ≤ 2 ∨ o = 3 ∨ o = 4 ∨ o = 5 ∨ o = 6 ∨ o = 7 ∨ o = 8 ∨ o = 9 ∨ o = 10 ∨ o = 11 ∨ o = 12 := by
  decide

/-- The decoder's answers for the non-bus operations, said once. -/
theorem decodeOperands_nonBus_iff {p : Presence} {o : BitVec 5} (ho : o.toNat ≤ 12) (hbus : ¬o.toNat ≤ 2) {a : Addr}
    {d : Byte} {buf : List Byte} {i : Instr} : decodeOperands p o a d buf = .ok i ↔ OperandCase a d buf o i := by
  constructor
  · intro h
    rcases opc_cases o ho with h2 | rfl | rfl | rfl | rfl | rfl | rfl | rfl | rfl | rfl | rfl
    · exact absurd h2 hbus
    · obtain ⟨ha, hd, rfl⟩ := strict_both_eq_ok.mp h
      exact .tick ha hd
    · obtain ⟨ha, hd, rfl⟩ := strict_both_eq_ok.mp h
      exact .frame ha hd
    · obtain ⟨ha, hd, rfl⟩ := strict_both_eq_ok.mp h
      exact .reset ha hd
    · obtain ⟨ha, hd, rfl⟩ := strict_both_eq_ok.mp h
      exact .key ha hd
    · obtain ⟨b, hb, ha, hd, rfl⟩ := decodeOperands_joy_eq_ok.mp h
      exact .joy b hb ha hd
    · obtain ⟨ha, hd, rfl⟩ := strict_both_eq_ok.mp h
      exact .line ha hd
    · obtain ⟨ha, hd, rfl⟩ := strict_both_eq_ok.mp h
      exact .ramcfg ha hd
    · obtain ⟨hd, rfl⟩ := strict_one_eq_ok.mp h
      exact .cart hd
    · obtain ⟨ha, hd, rfl⟩ := strict_both_eq_ok.mp h
      exact .prg ha hd
    · obtain ⟨ha, hd, rfl⟩ := strict_both_eq_ok.mp h
      exact .inject ha hd
  · intro h
    cases h with
    | joy b hb ha hd => exact decodeOperands_joy_eq_ok.mpr ⟨b, hb, ha, hd, rfl⟩
    | cart hd => exact strict_one_eq_ok.mpr ⟨hd, rfl⟩
    | _ => exact strict_both_eq_ok.mpr ⟨‹_›, ‹_›, rfl⟩

/-- Every operand is well formed and every non-bus row selected; the word's fields are the operands again. -/
theorem OperandCase.encode {a : Addr} {d : Byte} {buf : List Byte} {o : BitVec 5} {i : Instr}
    (h : OperandCase a d buf o i) (p : Presence) :
    i.wf = true ∧ i.selected p = true ∧ encodeWord i = mkWord o a d := by
  cases h with
  | tick ha hd | frame ha hd | reset ha hd | inject ha hd => exact ⟨rfl, rfl, by rw [ha, hd]; rfl⟩
  | key ha hd => exact ⟨rfl, rfl, by rw [encodeWord, flagAddr_eq ha, keyData_eq d hd]⟩
  | joy b hb ha hd =>
    exact ⟨rfl, rfl, by rw [encodeWord, flagAddr_eq ha, ← (buttonOf_eq_some _ b).mp hb, code3_eq d hd]⟩
  | line ha hd => exact ⟨rfl, rfl, by rw [encodeWord, lineAddr_eq ha, controlLineOf_eq, code2_eq d hd]⟩
  | ramcfg ha hd => exact ⟨rfl, rfl, by rw [encodeWord, ramPresetOf_eq, code3_eq d hd, ha]⟩
  | cart hd => exact ⟨rfl, rfl, by rw [encodeWord, flagByte_eq d hd]⟩
  | prg ha hd => exact ⟨rfl, rfl, by rw [encodeWord, flagByte_eq d hd, ha]⟩

/-- A decoded bus operation is the row of its address's target (R93): well formed, selected, and with the word's
fields but for the DATA that RD and VRD do not have (log 9). -/
theorem decodeOperands_bus_ok {p : Presence} {o : BitVec 5} (ho : o.toNat ≤ 2) {a : Addr} {d : Byte}
    {buf : List Byte} {i : Instr} (h : decodeOperands p o a d buf = .ok i) :
    i.wf = true ∧ i.selected p = true ∧ encodeWord i = mkWord o a (if o = 0 ∨ o = 2 then 0 else d) := by
  have hrow := decodeAddr_case p a
  rcases busOpc_cases o ho with rfl | rfl | rfl <;> cases h
  · obtain ⟨hw, hs⟩ := rdRow_wf_selected hrow
    exact ⟨hw, hs, by rw [encodeWord_rdRow, addrOf_rdRow hrow]; rfl⟩
  · obtain ⟨hw, hs⟩ := wrRow_wf_selected hrow d
    exact ⟨hw, hs, by rw [encodeWord_wrRow, addrOf_wrRow hrow]; rfl⟩
  · obtain ⟨hw, hs⟩ := vrdRow_wf_selected hrow
    exact ⟨hw, hs, by rw [encodeWord_vrdRow, addrOf_vrdRow]; rfl⟩

/-- A decoded operation with operands has the word's fields, but for the DATA of RD and VRD. -/
theorem decodeOperands_ok {p : Presence} {o : BitVec 5} (ho : o.toNat ≤ 12) {a : Addr} {d : Byte}
    {buf : List Byte} {i : Instr} (h : decodeOperands p o a d buf = .ok i) :
    i.wf = true ∧ i.selected p = true ∧ encodeWord i = mkWord o a (if o = 0 ∨ o = 2 then 0 else d) := by
  by_cases hbus : o.toNat ≤ 2
  · exact decodeOperands_bus_ok hbus h
  · have hno : ¬(o = 0 ∨ o = 2) := by rintro (rfl | rfl) <;> exact hbus (by decide)
    rw [if_neg hno]
    exact ((decodeOperands_nonBus_iff ho hbus).mp h).encode p

/-! ### The reserved rows -/

/-- The selector as the word's top five bits (R90). -/
theorem fieldOpc_toNat (w : OpWord) : (fieldOpc w).toNat = w.toNat / 2 ^ 27 := by
  rw [fieldOpc, BitVec.extractLsb'_toNat, Nat.shiftRight_eq_div_pow]
  omega

/-- A word is its bits from `m` on before the `m` bits below. -/
theorem append_extractLsb'_eq {n m : Nat} {top : BitVec n} {w : BitVec (n + m)} (h : w.toNat / 2 ^ m = top.toNat) :
    top ++ w.extractLsb' 0 m = w := by
  apply BitVec.eq_of_toNat_eq
  rw [BitVec.toNat_append, BitVec.extractLsb'_toNat, Nat.shiftRight_zero,
    ← Nat.shiftLeft_add_eq_or_of_lt (Nat.mod_lt _ (Nat.two_pow_pos m)), Nat.shiftLeft_eq, ← h, Nat.mul_comm,
    Nat.div_add_mod]

/-- A word with OPC 13 to 31 goes to a reserved row that holds the whole word, and exec refuses that row (R95, log 10). -/
theorem decode_reserved (p : Presence) {op : Op} (ho : ¬(fieldOpc op.word).toNat ≤ 12) :
    ∃ i, decode p op = .ok i ∧ (i.wf = true ∧ i.selected p = true ∧ encodeWord i = op.word) ∧
      ∀ s, exec i s = .refused .reservedOpc := by
  have hopc := fieldOpc_toNat op.word
  have hlt := op.word.isLt
  unfold decode
  dsimp only
  by_cases h16 : 16 ≤ (fieldOpc op.word).toNat
  · rw [if_pos h16]
    exact ⟨_, rfl, ⟨rfl, rfl, append_extractLsb'_eq (by change _ = 1; omega)⟩, fun _ => rfl⟩
  rw [if_neg h16]
  by_cases h14 : 14 ≤ (fieldOpc op.word).toNat
  · rw [if_pos h14]
    exact ⟨_, rfl, ⟨rfl, rfl, append_extractLsb'_eq (by change _ = 7; omega)⟩, fun _ => rfl⟩
  rw [if_neg h14, if_pos (by omega)]
  exact ⟨_, rfl, ⟨rfl, rfl, append_extractLsb'_eq (by change _ = 13; omega)⟩, fun _ => rfl⟩

/-- A decoded word with operands has RSV 0 (R95). -/
theorem fieldRsv_of_decode_ok {p : Presence} {op : Op} (ho : (fieldOpc op.word).toNat ≤ 12) {i : Instr}
    (h : decode p op = .ok i) : fieldRsv op.word = 0 := by
  by_contra hr
  unfold decode at h
  dsimp only at h
  rw [if_neg (by omega), if_neg (by omega), if_neg (by omega), if_pos hr] at h
  cases h

/-! ### The round trip -/

/-- Settles O2: a word with operands is built of its fields, and so is the decoded operation's; a reserved row holds the
whole word. -/
theorem encodeOfDecodeRestoresTheWord : Obligations.EncodeOfDecodeRestoresTheWord := by
  intro p op i h
  by_cases ho : (fieldOpc op.word).toNat ≤ 12
  · have hr := fieldRsv_of_decode_ok ho h
    rw [decode_fields ho hr] at h
    obtain ⟨hw, hs, henc⟩ := decodeOperands_ok ho h
    refine ⟨hw, hs, henc.trans ?_⟩
    split
    · rw [← mkWord_clearData _ _ (fieldData op.word), mkWord_fields op.word hr]
    · exact mkWord_fields op.word hr
  · obtain ⟨j, hj, ⟨hw, hs, henc⟩, -⟩ := decode_reserved p ho
    obtain rfl : j = i := Except.ok.inj (hj.symm.trans h)
    have hno : ¬(fieldOpc op.word = 0 ∨ fieldOpc op.word = 2) := by
      rintro (h0 | h2)
      · exact ho (by rw [h0]; decide)
      · exact ho (by rw [h2]; decide)
    exact ⟨hw, hs, by rw [if_neg hno, henc]⟩

end Sys2Proof.Machine
end

section
/-! The step on the presented words (R90 to R95): a decoded word runs, and the reserved words are refused. -/

namespace Sys2Proof.Machine

/-- Settles O4: each word is the encoding of its row, which power-on's presence selects. -/
theorem tableWordsDecodeToTheirRows : Obligations.TableWordsDecodeToTheirRows := by
  have hdecode := fun i => decodeOfEncodeIsIdentity Presence.empty i
  exact ⟨hdecode (.wrVia2Ier 0xC0) rfl rfl, hdecode .rdVia2Ifr rfl rfl, hdecode (.wrRamLo 0x0289 0x0A) rfl rfl,
    hdecode .rdVicReg15 rfl rfl, hdecode (.vrdVicWindow 0x9004) rfl rfl, hdecode .tick rfl rfl,
    hdecode .frame rfl rfl, hdecode .reset rfl rfl, hdecode (.key true 3 0) rfl rfl,
    hdecode (.joy true .down) rfl rfl, hdecode (.line .via1 true .ca1) rfl rfl, hdecode (.ramcfg .k16) rfl rfl,
    hdecode (.cart 0xA000 false [7]) rfl rfl, hdecode (.prg true [7]) rfl rfl, hdecode (.inject [7]) rfl rfl⟩

/-- Settles O6: the arms of the three reserved rows. -/
theorem reservedRowsAreRefused : Obligations.ReservedRowsAreRefused :=
  fun _ _ _ _ => ⟨rfl, rfl, rfl⟩

/-! ### The step by what the decoder gives -/

theorem step_of_decode_ok {s : State} {op : Op} {rest : List Op} {i : Instr} (hq : s.queue = op :: rest)
    (h : decode s.presence op = .ok i) : step s = exec i { s with queue := rest } := by
  simp only [step, hq, h]

theorem step_of_decode_error {s : State} {op : Op} {rest : List Op} {e : DecodeError} (hq : s.queue = op :: rest)
    (h : decode s.presence op = .error e) : step s = .refused (.reservedWord e) := by
  simp only [step, hq, h]

/-- Settles O7. -/
theorem stepRunsTheDecodedOperation : Obligations.StepRunsTheDecodedOperation :=
  fun _ _ _ _ hq h => step_of_decode_ok hq h

/-! ### What exec refuses -/

/-- The refusals of exec: FRAME's, and those of the rows with OPC 13 to 31. -/
theorem exec_refused {i : Instr} {s : State} {r : Refusal} (h : exec i s = .refused r) :
    r = .cpuStepZero ∨ r = .reservedOpc ∧ 13 ≤ (fieldOpc (encodeWord i)).toNat := by
  cases i with
  | frame =>
    change execFrame s = _ at h
    unfold execFrame at h
    split at h <;> cases h
    exact .inl rfl
  | reservedOpc13 rest =>
    cases h
    exact .inr ⟨rfl, by rw [encodeWord, fieldOpc_reserved13]; decide⟩
  | reservedOpc14to15 rest =>
    cases h
    exact .inr ⟨rfl, (fieldOpc_reserved14to15_toNat rest).1.trans' (by decide)⟩
  | reservedOpc16to31 rest =>
    cases h
    exact .inr ⟨rfl, (fieldOpc_reserved16to31_toNat rest).trans' (by decide)⟩
  | _ => cases h

/-! ### The reserved words -/

theorem mkWord_eq_zero (a : Addr) (d : Byte) : mkWord 0 a d = 0 ↔ a = 0 ∧ d = 0 := by
  constructor
  · intro h
    have ha := fieldAddr_mkWord 0 a d
    have hd := fieldData_mkWord 0 a d
    rw [h] at ha hd
    exact ⟨ha.symm, hd.symm⟩
  · rintro ⟨rfl, rfl⟩
    rfl

/-- Operand bits of a word under a mask, by the two operand fields (R90). -/
theorem mkWord_and_ne_zero (o : BitVec 5) (a m : Addr) (d n : Byte) :
    mkWord o a d &&& (0#5 ++ 0#3 ++ m ++ n : BitVec 32) ≠ 0 ↔ ¬(a &&& m = 0 ∧ d &&& n = 0) := by
  have hmask : mkWord o a d &&& (0#5 ++ 0#3 ++ m ++ n : BitVec 32) = mkWord 0 (a &&& m) (d &&& n) := by
    rw [mkWord_and, BitVec.and_zero]
    rfl
  rw [hmask, Ne, mkWord_eq_zero]

/-- JOY's button as R95 reads it off the word. -/
theorem mkWord_and_7_toNat (o : BitVec 5) (a : Addr) (d : Byte) :
    (mkWord o a d &&& 7).toNat = (d.extractLsb' 0 3).toNat := by
  have hmask : mkWord o a d &&& 7 = mkWord 0 0 (d &&& 7) := by
    refine (mkWord_and o 0#5 0 a 0#16 d 7).trans ?_
    rw [BitVec.and_zero, BitVec.and_zero]
    rfl
  have hlow : ∀ e : Byte, (mkWord 0 0 (e &&& 7)).toNat = (e.extractLsb' 0 3).toNat := by decide
  rw [hmask, hlow]

/-- R95 by the fields of a word with RSV 0. -/
theorem reservedWord_mkWord (o : BitVec 5) (a : Addr) (d : Byte) :
    reservedWord (mkWord o a d) ↔
      13 ≤ o.toNat ∨
      (o = 3 ∧ ¬(a = 0 ∧ d = 0)) ∨
      (o = 4 ∧ ¬(a = 0 ∧ d = 0)) ∨
      (o = 5 ∧ ¬(a = 0 ∧ d = 0)) ∨
      (o = 6 ∧ ¬(a &&& 0xFFFE = 0 ∧ d &&& 0xC0 = 0)) ∨
      (o = 7 ∧ (¬(a &&& 0xFFFE = 0 ∧ d &&& 0xF8 = 0) ∨ buttonOf (d.extractLsb' 0 3) = none)) ∨
      (o = 8 ∧ ¬(a &&& 0xFEFE = 0 ∧ d &&& 0xFC = 0)) ∨
      (o = 9 ∧ ¬(a = 0 ∧ d &&& 0xF8 = 0)) ∨
      (o = 10 ∧ ¬d &&& 0xFE = 0) ∨
      (o = 11 ∧ ¬(a = 0 ∧ d &&& 0xFE = 0)) ∨
      (o = 12 ∧ ¬(a = 0 ∧ d = 0)) := by
  have hall : mkWord o a d &&& 0x00FFFFFF ≠ 0 ↔ ¬(a = 0 ∧ d = 0) := by
    have h := mkWord_and_ne_zero o a (BitVec.allOnes 16) d (BitVec.allOnes 8)
    rwa [BitVec.and_allOnes, BitVec.and_allOnes] at h
  have hdata (n : Byte) : mkWord o a d &&& (0#5 ++ 0#3 ++ BitVec.allOnes 16 ++ n : BitVec 32) ≠ 0 ↔
      ¬(a = 0 ∧ d &&& n = 0) := by
    have h := mkWord_and_ne_zero o a (BitVec.allOnes 16) d n
    rwa [BitVec.and_allOnes] at h
  have hcart : mkWord o a d &&& 0x000000FE ≠ 0 ↔ ¬d &&& 0xFE = 0 := by
    have h := mkWord_and_ne_zero o a 0#16 d 0xFE
    rw [BitVec.and_zero] at h
    simpa using h
  have hkey : mkWord o a d &&& 0x00FFFEC0 ≠ 0 ↔ _ := mkWord_and_ne_zero o a 0xFFFE d 0xC0
  have hjoy : mkWord o a d &&& 0x00FFFEF8 ≠ 0 ↔ _ := mkWord_and_ne_zero o a 0xFFFE d 0xF8
  have hline : mkWord o a d &&& 0x00FEFEFC ≠ 0 ↔ _ := mkWord_and_ne_zero o a 0xFEFE d 0xFC
  have hramcfg : mkWord o a d &&& 0x00FFFFF8 ≠ 0 ↔ _ := hdata 0xF8
  have hprg : mkWord o a d &&& 0x00FFFFFE ≠ 0 ↔ _ := hdata 0xFE
  rw [reservedWord, fieldOpc_mkWord, fieldRsv_mkWord, hall, hkey, hjoy, hline, hramcfg, hcart, hprg,
    mkWord_and_7_toNat, ← buttonOf_eq_none]
  simp only [ne_eq, not_true_eq_false, false_or]

theorem exists_strict_both_iff {m n : Nat} {x : BitVec m} {y : BitVec n} {j : Instr} :
    (∃ i, strict (x == 0 && y == 0) j = .ok i) ↔ x = 0 ∧ y = 0 := by
  simp only [strict_both_eq_ok, exists_and_left, exists_eq', and_true]

theorem exists_strict_one_iff {n : Nat} {y : BitVec n} {j : Instr} :
    (∃ i, strict (y == 0) j = .ok i) ↔ y = 0 := by
  simp only [strict_one_eq_ok, exists_and_left, exists_eq', and_true]

/-- The words that decode by their operands are those that R95 does not reserve. -/
theorem exists_decodeOperands_iff (p : Presence) {o : BitVec 5} (ho : o.toNat ≤ 12) (a : Addr) (d : Byte)
    (buf : List Byte) : (∃ i, decodeOperands p o a d buf = .ok i) ↔ ¬reservedWord (mkWord o a d) := by
  rw [reservedWord_mkWord]
  rcases opc_cases o ho with h2 | rfl | rfl | rfl | rfl | rfl | rfl | rfl | rfl | rfl | rfl
  · obtain ⟨i, hi, -⟩ := exists_decodeOperands_bus p h2 a d buf
    rcases busOpc_cases o h2 with rfl | rfl | rfl <;> simpa using ⟨i, hi⟩
  · exact exists_strict_both_iff.trans (by simp)
  · exact exists_strict_both_iff.trans (by simp)
  · exact exists_strict_both_iff.trans (by simp)
  · exact exists_strict_both_iff.trans (by simp)
  · simp only [decodeOperands_joy_eq_ok]
    cases buttonOf (d.extractLsb' 0 3) <;> simp
  · exact exists_strict_both_iff.trans (by simp)
  · exact exists_strict_both_iff.trans (by simp)
  · exact exists_strict_one_iff.trans (by simp)
  · exact exists_strict_both_iff.trans (by simp)
  · exact exists_strict_both_iff.trans (by simp)

/-- The decoder refuses exactly the reserved words with OPC 0 to 12; the others go to the reserved rows (log 10). -/
theorem exists_decode_ok_iff (p : Presence) {op : Op} (ho : (fieldOpc op.word).toNat ≤ 12) :
    (∃ i, decode p op = .ok i) ↔ ¬reservedWord op.word := by
  by_cases hr : fieldRsv op.word = 0
  · have h := exists_decodeOperands_iff p ho (fieldAddr op.word) (fieldData op.word) op.buf
    rwa [mkWord_fields op.word hr, ← decode_fields ho hr] at h
  · have hres : reservedWord op.word := .inr (.inl hr)
    exact ⟨fun ⟨_, h⟩ => absurd (fieldRsv_of_decode_ok ho h) hr, fun h => absurd hres h⟩

/-- exec refuses no operation with OPC 0 to 12 as reserved. -/
theorem exec_not_reserved {i : Instr} (ho : (fieldOpc (encodeWord i)).toNat ≤ 12) (s : State) :
    ¬(exec i s = .refused .reservedOpc ∨ ∃ e, exec i s = .refused (.reservedWord e)) := by
  rintro (h | ⟨e, h⟩) <;> rcases exec_refused h with hr | ⟨hr, hopc⟩
  · cases hr
  · omega
  · cases hr
  · cases hr

/-- Settles O5: a word with OPC 13 to 31 reaches a reserved row; any other is refused by the decoder when it is reserved,
and runs an operation that exec does not refuse as reserved when it is not. -/
theorem stepRefusesExactlyTheReservedWords : Obligations.StepRefusesExactlyTheReservedWords := by
  intro s op rest hq
  by_cases ho : (fieldOpc op.word).toNat ≤ 12
  · have hdec := exists_decode_ok_iff s.presence ho
    cases h : decode s.presence op with
    | ok i =>
      have hopc : (fieldOpc (encodeWord i)).toNat ≤ 12 := by
        rw [decode_fields ho (fieldRsv_of_decode_ok ho h)] at h
        obtain ⟨-, -, henc⟩ := decodeOperands_ok ho h
        rwa [henc, fieldOpc_mkWord]
      rw [step_of_decode_ok hq h]
      exact iff_of_false (exec_not_reserved hopc _) (hdec.mp ⟨i, h⟩)
    | error e =>
      refine iff_of_true (.inr ⟨e, step_of_decode_error hq h⟩) (not_not.mp fun hno => ?_)
      obtain ⟨i, hi⟩ := hdec.mpr hno
      cases h.symm.trans hi
  · obtain ⟨i, hi, -, hexec⟩ := decode_reserved s.presence ho
    exact iff_of_true (.inl ((step_of_decode_ok hq hi).trans (hexec _))) (.inl (by omega))

end Sys2Proof.Machine
end

section
/-! The rows of the stores and of the video engine (R122 to R127, R130 to R133): what the RD and WR rows of a RAM byte,
of a read-only store and of the floating bus do, and that a VRD row is VideoRead of its address. -/

namespace Sys2Proof.Machine

/-! ### The two rows of a target -/

/-- The RD and WR rows of the target an address has are the two bus accesses there (R93, R120, R121). -/
theorem exec_rows_of_target {a : Addr} {s : State} {t : Target} (h : s.target a = t) (v : Byte) :
    exec (rdRow t a) s = readDone (busRead a s) ∧ exec (wrRow t a v) s = writeDone (busWrite a v s) := by
  have hrow := s.target_case a
  rw [h] at hrow
  exact ⟨exec_rdRow hrow s, exec_wrRow hrow v s⟩

/-- At a RAM byte the RD row gives the byte held and the WR row stores (R123 to R126, R130, R131). -/
theorem exec_rows_ofRam {a : Addr} {s : State} {t : Target} (h : s.target a = t)
    (ht : t = .ramLo ∨ t = .ramMid ∨ t = .colram ∨ ∃ b, t = .expram b) (v : Byte) :
    exec (rdRow t a) s = .next { s with result := .byte (s.ramByte a) } ∧
      exec (wrRow t a v) s = .next (s.setRamByte a v) := by
  obtain ⟨hrd, hwr⟩ := exec_rows_of_target h v
  obtain ⟨hread, -, hwrite⟩ := busAccess_ofRam a v s (by rwa [h])
  rw [hrd, hwr, hread, hwrite]
  exact ⟨rfl, rfl⟩

/-- BusRead of a target that takes no write gives its byte and has no side effect (R71). -/
theorem busRead_of_not_writable {a : Addr} {s : State} {t : Target} (h : s.target a = t)
    (ht : writable t = false) : busRead a s = (storeByte t a s, s) := by
  cases t with
  | cart | romChar | romBasic | romKernal | float => simp only [busRead, h]
  | _ => cases ht

/-- At a ROM, a cartridge or the floating bus the RD row gives the target's byte and the WR row is discarded (R66). -/
theorem exec_rows_of_not_writable {a : Addr} {s : State} {t : Target} (h : s.target a = t)
    (ht : writable t = false) (v : Byte) :
    exec (rdRow t a) s = .next { s with result := .byte (storeByte t a s) } ∧ exec (wrRow t a v) s = .next s := by
  obtain ⟨hrd, hwr⟩ := exec_rows_of_target h v
  rw [hrd, hwr, busRead_of_not_writable h ht, busWrite_of_not_writable v h ht]
  exact ⟨rfl, rfl⟩

/-- At an address that nothing present claims, the rows of the floating bus (R65, R133). -/
theorem exec_rows_ofFloat {a : Addr} {s : State} (h : s.target a = .float) (v : Byte) :
    exec (.rdFloat a) s = .next { s with result := .byte (hiByte a) } ∧ exec (.wrFloat a v) s = .next s :=
  exec_rows_of_not_writable h rfl v

/-! ### RAM -/

/-- Settles O11: each fixed range gives its target whatever is present, and in a canonical memory the write moves the
one byte. -/
theorem fixedRamReadsAndWrites : Obligations.FixedRamReadsAndWrites := by
  intro a v s hwf
  refine ⟨fun h => ?_, fun h => ?_, fun h => ?_, fun b => State.ramByte_setRamByte s a b v hwf⟩
  · exact exec_rows_ofRam (decodeAddr_ramLo s.presence h) (.inl rfl) v
  · exact exec_rows_ofRam (decodeAddr_ramMid s.presence h) (.inr (.inl rfl)) v
  · exact exec_rows_ofRam (decodeAddr_colram s.presence h) (.inr (.inr (.inl rfl))) v

/-- Settles O12: the block's presence bit chooses between its RAM and the floating bus. -/
theorem expansionBlockZeroReadsAndWrites : Obligations.ExpansionBlockZeroReadsAndWrites := by
  intro a v s ha
  obtain ⟨h1, h2⟩ := (inRange_iff _ _ a).mp ha
  refine ⟨fun hp => ?_, fun hp => ?_⟩
  · exact exec_rows_ofRam (State.target_eq (.expram0 h1 h2 hp)) (.inr (.inr (.inr ⟨0, rfl⟩))) v
  · exact exec_rows_ofFloat (State.target_eq (.noExpram0 h1 h2 hp)) v

/-! ### The expansion regions -/

/-- Within its image a cartridge gives the image's byte (R126). -/
theorem State.cartByte_of_lt {s : State} {c : Fin 4} {a : Addr} {image : List Byte} (hc : s.cart[c] = some image)
    (h : a.toNat - cartBase c < image.length) : s.cartByte c a = image[a.toNat - cartBase c] := by
  simp only [State.cartByte, hc, List.getD_eq_getElem _ _ h]

/-- The decoder sees a slot's image by its length (R61). -/
theorem State.presence_cart_some {s : State} {c : Fin 4} {image : List Byte} (hc : s.cart[c] = some image) :
    s.presence.cart[c] = some image.length := by
  rw [State.presence_cart, State.cartLength, hc, Option.map_some]

theorem State.presence_cart_none {s : State} {c : Fin 4} (hc : s.cart[c] = none) : s.presence.cart[c] = none := by
  rw [State.presence_cart, State.cartLength, hc, Option.map_none]

/-- R126, R131 over the rows of the slot's targets: the image, the bus past it, the block behind an empty slot, or the
bus. -/
theorem exec_rows_ofRegion (c : Fin 4) (a : Addr) (v : Byte) (s : State) (hreg : inRegion c a) :
    (∀ image, s.cart[c] = some image →
      (∀ h : a.toNat - cartBase c < image.length,
        exec (rdRow (.cart c) a) s = .next { s with result := .byte image[a.toNat - cartBase c] } ∧
          exec (wrRow (.cart c) a v) s = .next s) ∧
      (image.length ≤ a.toNat - cartBase c →
        exec (.rdFloat a) s = .next { s with result := .byte (hiByte a) } ∧ exec (.wrFloat a v) s = .next s)) ∧
    (s.cart[c] = none → s.expram[c.succ] = true →
      exec (rdRow (.expram c.succ) a) s = .next { s with result := .byte (s.ramByte a) } ∧
        exec (wrRow (.expram c.succ) a v) s = .next (s.setRamByte a v)) ∧
    (s.cart[c] = none → s.expram[c.succ] = false →
      exec (.rdFloat a) s = .next { s with result := .byte (hiByte a) } ∧ exec (.wrFloat a v) s = .next s) := by
  obtain ⟨h1, h2⟩ := hreg
  refine ⟨fun image hc => ⟨fun hlt => ?_, fun hge => ?_⟩, fun hc hp => ?_, fun hc hp => ?_⟩
  · have hrows := exec_rows_of_not_writable (State.target_eq (.cart c _ h1 h2 (State.presence_cart_some hc) hlt)) rfl v
    rwa [storeByte, State.cartByte_of_lt hc hlt] at hrows
  · exact exec_rows_ofFloat (State.target_eq (.pastCart c _ h1 h2 (State.presence_cart_some hc) hge)) v
  · exact exec_rows_ofRam (State.target_eq (.expram c h1 h2 (State.presence_cart_none hc) hp))
      (.inr (.inr (.inr ⟨c.succ, rfl⟩))) v
  · exact exec_rows_ofFloat (State.target_eq (.noExpram c h1 h2 (State.presence_cart_none hc) hp)) v

/-- Settles O13: slot by slot, the rows the statement names are those of the slot's targets. -/
theorem expansionRegionsReadAndWrite : Obligations.ExpansionRegionsReadAndWrite := by
  intro c
  fin_cases c <;> exact exec_rows_ofRegion _

/-! ### ROM -/

/-- The low address bits are the index into a store whose base is a multiple of its size (R61). -/
theorem extractLsb'_zero_eq_ofNat_sub {a : Addr} {w base : Nat} (hbase : 2 ^ w ∣ base) (h : base ≤ a.toNat) :
    a.extractLsb' 0 w = BitVec.ofNat w (a.toNat - base) := by
  obtain ⟨k, rfl⟩ := hbase
  apply BitVec.eq_of_toNat_eq
  rw [BitVec.extractLsb'_toNat, BitVec.toNat_ofNat, Nat.shiftRight_zero, Nat.sub_mul_mod h]

/-- Settles O14: each range gives its ROM, which is not writable, and its base is a multiple of its size. -/
theorem romRowsReadAndDiscardWrites : Obligations.RomRowsReadAndDiscardWrites := by
  intro a v s
  refine ⟨fun h => ?_, fun h => ?_, fun h => ?_⟩ <;> obtain ⟨hlo, -⟩ := (inRange_iff _ _ a).mp h
  · rw [← extractLsb'_zero_eq_ofNat_sub (by decide) hlo]
    exact exec_rows_of_not_writable (decodeAddr_romChar s.presence h) rfl v
  · rw [← extractLsb'_zero_eq_ofNat_sub (by decide) hlo]
    exact exec_rows_of_not_writable (decodeAddr_romBasic s.presence h) rfl v
  · rw [← extractLsb'_zero_eq_ofNat_sub (by decide) hlo]
    exact exec_rows_of_not_writable (decodeAddr_romKernal s.presence h) rfl v

/-! ### The video engine's port -/

/-- A well-formed VRD row is the VRD row of a target that its address decodes to under some presence. -/
theorem exists_eq_vrdRow {i : Instr} (ho : fieldOpc (encodeWord i) = 2) (hw : i.wf = true) :
    ∃ p, i = vrdRow (decodeAddr p (addrOf i)) (addrOf i) := by
  obtain ⟨p, hs⟩ := exists_selected i
  have hrow := decodeOperands_encode hw hs (by rw [ho]; decide) []
  rw [ho] at hrow
  exact ⟨p, (Except.ok.inj hrow).symm⟩

/-- Every VRD row completes as VideoRead of its address (R91, R122). -/
theorem exec_vrdRow (t : Target) (a : Addr) (s : State) : exec (vrdRow t a) s = videoDone a s := by
  cases t with
  | cart c => fin_cases c <;> rfl
  | expram b => fin_cases b <;> rfl
  | _ => rfl

theorem exec_of_vrd {i : Instr} (ho : fieldOpc (encodeWord i) = 2) (hw : i.wf = true) (s : State) :
    exec i s = videoDone (addrOf i) s := by
  obtain ⟨p, hi⟩ := exists_eq_vrdRow ho hw
  have hexec := exec_vrdRow (decodeAddr p (addrOf i)) (addrOf i) s
  rwa [← hi] at hexec

/-- The video engine does not see the register windows (R64). -/
theorem videoRead_of_window {a : Addr} (s : State)
    (h : AddrRange.covers .vicWindow a = true ∨ AddrRange.covers .viaWindows a = true) :
    videoRead a s = hiByte a := by
  rcases h with h | h
  · have ht : s.target a = .vic (registerIndex a) := decodeAddr_vicWindow s.presence h
    rw [videoRead, ht, storeByte, floatByte]
  · obtain ⟨k, ht⟩ : ∃ k, s.target a = .via k (registerIndex a) := decodeAddr_viaWindows s.presence h
    rw [videoRead, ht, storeByte, floatByte]

/-- Only the addresses of the window decode to a video register (R61). -/
theorem covers_of_target_vic {a : Addr} {s : State} {r : Fin 16} (h : s.target a = .vic r) :
    AddrRange.covers .vicWindow a = true := by
  have hrow := s.target_case a
  rw [h] at hrow
  cases hrow with
  | vic h1 h2 => exact (inRange_iff ..).mpr ⟨h1, h2⟩

/-- Only the addresses of the two windows decode to a timer/IO register (R62). -/
theorem covers_of_target_via {a : Addr} {s : State} {k : ViaId} {r : Fin 16} (h : s.target a = .via k r) :
    AddrRange.covers .viaWindows a = true := by
  have hrow := s.target_case a
  rw [h] at hrow
  cases hrow with
  | via1 h1 h2 => exact (inRange_iff ..).mpr ⟨by omega, by omega⟩
  | via2 h1 h2 => exact (inRange_iff ..).mpr ⟨by omega, h2⟩

/-- Outside the register windows BusRead is VideoRead (R71, R122). -/
theorem busRead_of_not_window {a : Addr} (s : State) (hvic : AddrRange.covers .vicWindow a = false)
    (hvia : AddrRange.covers .viaWindows a = false) : busRead a s = (videoRead a s, s) := by
  rcases busRead_cases a s with ⟨r, ht, -⟩ | ⟨k, r, ht, -⟩ | ⟨-, -, h⟩
  · exact absurd (covers_of_target_vic ht) (Bool.eq_false_iff.mp hvic)
  · exact absurd (covers_of_target_via ht) (Bool.eq_false_iff.mp hvia)
  · exact h

/-- Settles O10: the row is VideoRead of its address, which is the floating bus in a register window and BusRead's byte
elsewhere. -/
theorem videoReadRowsHaveNoSideEffect : Obligations.VideoReadRowsHaveNoSideEffect := by
  intro i s ho hw
  rw [exec_of_vrd ho hw, videoDone]
  refine ⟨fun hwin => ?_, fun hvic hvia => ?_⟩
  · rw [videoRead_of_window s hwin]
  · rw [busRead_of_not_window s hvic hvia]
    exact ⟨rfl, rfl⟩

end Sys2Proof.Machine
end

section
/-! The register rows of a timer/IO core (R150 to R182): the plain reads and writes, the timers, the interrupt
registers, the output-data ports, and PCR with its two manual outputs. -/

namespace Sys2Proof.Machine

/-! ### The rows by their register -/

/-- A RD row gives what ViaRead gives for its register (R91, R150). -/
theorem exec_rdViaRow_of_viaRead {k : ViaId} {r : Fin 16} {s t : State} {v : Byte} (h : viaRead k r s = (v, t)) :
    exec (rdViaRow k r) s = .next { t with result := .byte v } := by
  rw [exec_rdViaRow, ← viaRead_eq_busRead, h, readDone]

/-- A WR row leaves what ViaWrite leaves for its register (R91, R151). -/
theorem exec_wrViaRow_of_viaWrite {k : ViaId} {r : Fin 16} {d : Byte} {s t : State} (h : viaWrite k r d s = t) :
    exec (wrViaRow k r d) s = .next t := by
  rw [exec_wrViaRow, ← viaWrite_eq_busWrite, h, writeDone]

/-! ### Plain reads and writes -/

/-- The low byte of a 16-bit value as a number, v[7:0] (R8). -/
theorem loByte_eq_ofNat (v : BitVec 16) : loByte v = BitVec.ofNat 8 v.toNat := rfl

/-- Settles O21: ViaRead of each register gives the stored byte, a counter's or latch's by its number, and the state
as it was. -/
theorem plainViaReads : Obligations.PlainViaReads := by
  intro k s
  simp only [← hiByte_eq_ofNat, ← loByte_eq_ofNat]
  exact ⟨exec_rdViaRow_of_viaRead rfl, exec_rdViaRow_of_viaRead rfl, exec_rdViaRow_of_viaRead rfl,
    exec_rdViaRow_of_viaRead rfl, exec_rdViaRow_of_viaRead rfl, exec_rdViaRow_of_viaRead rfl,
    exec_rdViaRow_of_viaRead rfl, exec_rdViaRow_of_viaRead rfl, exec_rdViaRow_of_viaRead rfl⟩

/-- Settles O26: ViaWrite of each register is an update of one field of the core. -/
theorem plainViaWrites : Obligations.PlainViaWrites := by
  intro k d s
  exact ⟨exec_wrViaRow_of_viaWrite rfl, exec_wrViaRow_of_viaWrite rfl, exec_wrViaRow_of_viaWrite rfl,
    exec_wrViaRow_of_viaWrite rfl, exec_wrViaRow_of_viaWrite rfl, exec_wrViaRow_of_viaWrite rfl,
    exec_wrViaRow_of_viaWrite rfl⟩

/-! ### Timers -/

/-- Settles O23: the flag cleared is the timer's own mask. -/
theorem counterLowReadsClearTheirFlag : Obligations.CounterLowReadsClearTheirFlag := by
  intro k s
  simp only [← loByte_eq_ofNat]
  exact ⟨exec_rdViaRow_of_viaRead rfl, exec_rdViaRow_of_viaRead rfl⟩

/-- Settles O27: each high-byte write is one update of the core. -/
theorem timerHighWrites : Obligations.TimerHighWrites := by
  intro k d s
  exact ⟨exec_wrViaRow_of_viaWrite rfl, exec_wrViaRow_of_viaWrite rfl, exec_wrViaRow_of_viaWrite rfl⟩

/-! ### Interrupt registers -/

/-- R164: the summary bit above the seven flags. -/
theorem ifrByte_eq (v : Via) :
    ifrByte v = v.ifr.setWidth 8 ||| if v.ifr &&& v.ier ≠ 0 then 0x80 else 0x00 := by
  have append_flags : ∀ (b : BitVec 1) (f : BitVec 7), b ++ f = f.setWidth 8 ||| (b ++ 0#7) := by decide
  rw [ifrByte, append_flags]
  by_cases h : v.ifr &&& v.ier = 0#7
  · simp [irqLine, h]
  · simp [irqLine, h]

/-- R165: bit 7 of IER reads as 1. -/
theorem ierByte_eq (v : Via) : ierByte v = 0x80 ||| v.ier.setWidth 8 := by
  have append_enables : ∀ e : BitVec 7, 1#1 ++ e = 0x80 ||| e.setWidth 8 := by decide
  exact append_enables v.ier

/-- Settles O22: the two bytes by `ifrByte_eq` and `ierByte_eq`. -/
theorem interruptRegisterReads : Obligations.InterruptRegisterReads := by
  intro k s
  exact ⟨exec_rdViaRow_of_viaRead (congrArg (·, s) (ifrByte_eq (s.via k))),
    exec_rdViaRow_of_viaRead (congrArg (·, s) (ierByte_eq (s.via k)))⟩

theorem clearFlags_getLsbD (f mask : BitVec 7) {i : Nat} (hi : i < 7) :
    (clearFlags f mask).getLsbD i = (f.getLsbD i && !mask.getLsbD i) := by
  rw [clearFlags, BitVec.getLsbD_and, BitVec.getLsbD_not, decide_eq_true hi, Bool.true_and]

theorem lowSeven_getLsbD (d : Byte) {i : Nat} (hi : i < 7) : (lowSeven d).getLsbD i = d.getLsbD i := by
  rw [lowSeven, BitVec.getLsbD_extractLsb', decide_eq_true hi, Bool.true_and, Nat.zero_add]

/-- R180, bit by bit. -/
theorem ierAfterWrite_getLsbD (ier : BitVec 7) (d : Byte) {i : Nat} (hi : i < 7) :
    (ierAfterWrite ier d).getLsbD i =
      if d.getLsbD 7 then (ier.getLsbD i || d.getLsbD i) else (ier.getLsbD i && !d.getLsbD i) := by
  rw [ierAfterWrite]
  split
  · rw [BitVec.getLsbD_or, lowSeven_getLsbD d hi]
  · rw [← clearFlags, clearFlags_getLsbD _ _ hi, lowSeven_getLsbD d hi]

/-- Settles O28: the registers after the two writes, with their bits. -/
theorem interruptRegisterWrites : Obligations.InterruptRegisterWrites := by
  intro k d s
  refine ⟨ifrAfterWrite (s.via k).ifr d, ierAfterWrite (s.via k).ier d, exec_wrViaRow_of_viaWrite rfl, ?_,
    exec_wrViaRow_of_viaWrite rfl, fun i hi => ierAfterWrite_getLsbD _ d hi⟩
  intro i hi
  rw [ifrAfterWrite, clearFlags_getLsbD _ _ hi, lowSeven_getLsbD d hi]

/-! ### Output-data ports -/

/-- What a read of ORA_NH can do: the merged register and the recorded question, no flag (R166, R182). -/
theorem viaReadOraNh_eq (k : ViaId) (s : State) :
    viaReadOraNh k s =
      let v := s.via k
      let ora := mergeInput v.ora v.ddra (portLive s k .a)
      (ora, (s.setVia k { v with ora := ora }).emit (.portIn k .a (portLive s k .a))) := by
  simp only [viaReadOraNh, portInMerge, State.emit_via, State.setVia_via_same]

/-- Settles O24: a bit of a live byte is the level of its wiring's term, and each port read is the read of its
register. -/
theorem portReadsMergeLiveInput : Obligations.PortReadsMergeLiveInput := by
  intro k s
  exact ⟨fun p i => s.liveByte_getLsbD (portBits s.params.wiring k p) i,
    exec_rdViaRow_of_viaRead (viaReadOrb_eq k s), exec_rdViaRow_of_viaRead (viaReadOra_eq k s),
    exec_rdViaRow_of_viaRead (viaReadOraNh_eq k s)⟩

/-- Settles O29: each port write is one update of the core and one event. -/
theorem portWrites : Obligations.PortWrites := by
  intro k d s
  exact ⟨exec_wrViaRow_of_viaWrite rfl, exec_wrViaRow_of_viaWrite rfl, exec_wrViaRow_of_viaWrite rfl⟩

/-! ### PCR and its manual outputs -/

/-- R35, R178: the level a mode leaves on its line. -/
theorem manualLevel_getD : ∀ (mode : BitVec 3) (level : Bool),
    (manualLevel mode).getD level = if mode.toNat = 6 then false else if mode.toNat = 7 then true else level := by
  decide

/-- R178: a requested level is recorded as the level the line has after the drive. -/
theorem manualLevel_events (mode : BitVec 3) (level : Bool) (event : Bool → Event) :
    ((manualLevel mode).map event).toList =
      if 6 ≤ mode.toNat then [event ((manualLevel mode).getD level)] else [] := by
  have request : ∀ (mode : BitVec 3) (level : Bool),
      manualLevel mode = if 6 ≤ mode.toNat then some ((manualLevel mode).getD level) else none := by
    decide
  rw [request mode level]
  split <;> rfl

/-- The mode field of CA2, PCR[3:1] (R35). -/
theorem ca2Mode_toNat (d : Byte) : (d.extractLsb' 1 3).toNat = d.toNat / 2 % 8 := by
  rw [BitVec.extractLsb'_toNat, Nat.shiftRight_eq_div_pow]

/-- The mode field of CB2, PCR[7:5] (R35). -/
theorem cb2Mode_toNat (d : Byte) : (d.extractLsb' 5 3).toNat = d.toNat / 32 := by
  rw [BitVec.extractLsb'_toNat, Nat.shiftRight_eq_div_pow]
  omega

/-- Settles O30: the two drives of `viaWritePcr_eq`, their modes read as numbers. -/
theorem pcrWritesDriveManualOutputs : Obligations.PcrWritesDriveManualOutputs := by
  intro k d s
  refine exec_wrViaRow_of_viaWrite ((viaWritePcr_eq k d s).trans ?_)
  rw [manualLevel_events (d.extractLsb' 5 3) (s.via k).cb2, manualLevel_events (d.extractLsb' 1 3) (s.via k).ca2,
    manualLevel_getD, manualLevel_getD, ca2Mode_toNat, cb2Mode_toNat]

end Sys2Proof.Machine
end

section
/-! A timer/IO core over a number of ticks (R184 to R187): the timers by the ticks left before they expire, and the edge
detector. -/

namespace Sys2Proof.Machine

/-! ### The ticks to zero -/

theorem ticksToZero_pos (c : BitVec 16) : 0 < ticksToZero c := by
  rw [ticksToZero]
  split
  · decide
  · bv_omega

theorem ticksToZero_eq_one (c : BitVec 16) : ticksToZero c = 1 ↔ c = 1 := by
  rw [ticksToZero]
  split <;> bv_omega

/-- A decrement that does not reach 0 leaves one tick fewer; a counter at 0 wraps (R185). -/
theorem ticksToZero_sub_one {c : BitVec 16} (h : c ≠ 1) : ticksToZero (c - 1) + 1 = ticksToZero c := by
  rw [ticksToZero, ticksToZero]
  split <;> split <;> bv_omega

/-! ### The flags of one tick -/

theorem setFlags_getLsbD (f mask : BitVec 7) (i : Nat) :
    (setFlags f mask).getLsbD i = (f.getLsbD i || mask.getLsbD i) := BitVec.getLsbD_or

/-- A flag outside the mask of a step that sets that mask or nothing is kept. -/
theorem getLsbD_of_setFlags {f g mask : BitVec 7} {i : Nat} (h : g = f ∨ g = setFlags f mask)
    (hi : mask.getLsbD i = false) : g.getLsbD i = f.getLsbD i := by
  rcases h with rfl | rfl
  · rfl
  · rw [setFlags_getLsbD, hi, Bool.or_false]

/-- R185: after a tick the flag of timer 1 is what timer 1 made it. -/
theorem viaTick_flagT1 (v : Via) : (viaTick v).ifr.getLsbD 6 = (tickT1 v).ifr.getLsbD 6 :=
  (getLsbD_of_setFlags (tickEdges_ifr _) (by decide)).trans (getLsbD_of_setFlags (tickT2_ifr _) (by decide))

/-- R186: timer 2 sets its flag when it is not held and expires untriggered. -/
theorem tickT2_flagT2 (v : Via) :
    (tickT2 v).ifr.getLsbD 5 =
      (v.ifr.getLsbD 5 || (!v.acr.getLsbD 5 && (!v.t2trig && decide (v.t2c = 1)))) := by
  rcases tickT2_cases v with ⟨ha, h⟩ | ⟨ha, hc, ht, h⟩ | ⟨ha, hc, h⟩
  · rw [h, ha]
    exact (Bool.or_false _).symm
  · rw [h, ha, ht, decide_eq_true (sub_eq_zero.mp hc)]
    exact setFlags_getLsbD v.ifr flagT2 5
  · have hno : (!v.t2trig && decide (v.t2c = 1)) = false := by
      rw [sub_eq_zero] at hc
      simpa [and_comm] using hc
    rw [h, ha, hno]
    exact (Bool.or_false _).symm

/-- Timer 1 leaves timer 2 and the configuration alone. -/
theorem tickT1_keeps_t2 (v : Via) :
    (tickT1 v).acr = v.acr ∧ (tickT1 v).t2c = v.t2c ∧ (tickT1 v).t2trig = v.t2trig := by
  rw [tickT1_frame]
  exact ⟨rfl, rfl, rfl⟩

/-- R186: after a tick the flag of timer 2 is what timer 2 made it. -/
theorem viaTick_flagT2 (v : Via) :
    (viaTick v).ifr.getLsbD 5 =
      (v.ifr.getLsbD 5 || (!v.acr.getLsbD 5 && (!v.t2trig && decide (v.t2c = 1)))) := by
  obtain ⟨ha, hc, ht⟩ := tickT1_keeps_t2 v
  have hT1 : (tickT1 v).ifr.getLsbD 5 = v.ifr.getLsbD 5 := getLsbD_of_setFlags (tickT1_ifr v) (by decide)
  have hEdges : (viaTick v).ifr.getLsbD 5 = (tickT2 (tickT1 v)).ifr.getLsbD 5 :=
    getLsbD_of_setFlags (tickEdges_ifr _) (by decide)
  rw [hEdges, tickT2_flagT2, hT1, ha, hc, ht]

/-! ### What a tick keeps -/

theorem viaTick_acr (v : Via) : (viaTick v).acr = v.acr := by rw [viaTick_frame]

theorem viaTick_t1l (v : Via) : (viaTick v).t1l = v.t1l := by rw [viaTick_frame]

theorem viaTicks_acr (n : Nat) (v : Via) : (viaTicks n v).acr = v.acr := by
  induction n generalizing v with
  | zero => rfl
  | succ n ih => exact (ih (viaTick v)).trans (viaTick_acr v)

theorem viaTicks_t1l (n : Nat) (v : Via) : (viaTicks n v).t1l = v.t1l := by
  induction n generalizing v with
  | zero => rfl
  | succ n ih => exact (ih (viaTick v)).trans (viaTick_t1l v)

theorem viaTicks_add (m n : Nat) (v : Via) : viaTicks (m + n) v = viaTicks n (viaTicks m v) := by
  induction m generalizing v with
  | zero => rw [Nat.zero_add, viaTicks]
  | succ m ih => rw [Nat.succ_add, viaTicks, viaTicks, ih]

/-! ### Timer 1 -/

/-- The ticks before timer 1 expires: the rest of the delay, then the count (R185). -/
def Via.t1Left (v : Via) : Nat := v.t1pre + ticksToZero v.t1c

/-- One tick of timer 1 by its fields. -/
theorem viaTick_t1 (v : Via) :
    (viaTick v).t1c = (tickT1 v).t1c ∧ (viaTick v).t1pre = (tickT1 v).t1pre ∧
      (viaTick v).t1trig = (tickT1 v).t1trig := by
  rw [viaTick_frame]
  exact ⟨rfl, rfl, rfl⟩

/-- The last tick is the one with no delay and the counter at 1. -/
theorem Via.t1Left_eq_one (v : Via) : v.t1Left = 1 ↔ v.t1pre = 0 ∧ v.t1c = 1 := by
  have hpos := ticksToZero_pos v.t1c
  rw [Via.t1Left, ← ticksToZero_eq_one]
  omega

/-- A tick before the last leaves one tick fewer, and neither sets the flag nor triggers (R185). -/
theorem viaTick_t1_before {v : Via} (h : 1 < v.t1Left) :
    (viaTick v).t1Left + 1 = v.t1Left ∧ (viaTick v).t1trig = v.t1trig ∧
      (viaTick v).ifr.getLsbD 6 = v.ifr.getLsbD 6 := by
  obtain ⟨hc, hp, ht⟩ := viaTick_t1 v
  rw [viaTick_flagT1, Via.t1Left, hc, hp, ht]
  have hlast := v.t1Left_eq_one
  rcases tickT1_cases v with ⟨hpre, he⟩ | ⟨hpre, hz, -, -⟩ | ⟨hpre, -, he⟩
  · rw [he]
    refine ⟨?_, rfl, rfl⟩
    dsimp only [Via.t1Left]
    omega
  · rw [sub_eq_zero] at hz
    have := hlast.mpr ⟨hpre, hz⟩
    omega
  · have hne : v.t1c ≠ 1 := fun h1 => by
      have := hlast.mpr ⟨hpre, h1⟩
      omega
    have hz := ticksToZero_sub_one hne
    rw [he]
    refine ⟨?_, rfl, rfl⟩
    dsimp only [Via.t1Left]
    omega

/-- The last tick of an untriggered timer 1 sets the flag; it reloads in free-run mode and triggers in one-shot mode
(R185). -/
theorem viaTick_t1_last {v : Via} (h : v.t1Left = 1) (ht : v.t1trig = false) :
    (viaTick v).ifr.getLsbD 6 = true ∧ (viaTick v).t1trig = !v.acr.getLsbD 6 ∧
      (v.acr.getLsbD 6 = true → (viaTick v).t1c = v.t1l ∧ (viaTick v).t1pre = 2) := by
  obtain ⟨hpre, hc⟩ := v.t1Left_eq_one.mp h
  obtain ⟨hc', hp', ht'⟩ := viaTick_t1 v
  rw [viaTick_flagT1, hc', hp', ht']
  rcases tickT1_cases v with ⟨hpos, -⟩ | ⟨-, -, -, he⟩ | ⟨-, hnot, -⟩
  · omega
  · rw [he]
    cases ha : v.acr.getLsbD 6 <;> simp [setFlags_getLsbD, flagT1, ht]
  · exact absurd ⟨sub_eq_zero.mpr hc, ht⟩ hnot

/-- A triggered timer 1 stays triggered and leaves its flag alone (R185). -/
theorem viaTick_t1_triggered {v : Via} (ht : v.t1trig = true) :
    (viaTick v).ifr.getLsbD 6 = v.ifr.getLsbD 6 ∧ (viaTick v).t1trig = true := by
  obtain ⟨-, -, ht'⟩ := viaTick_t1 v
  rw [viaTick_flagT1, ht']
  rcases tickT1_cases v with ⟨-, he⟩ | ⟨-, -, hf, -⟩ | ⟨-, -, he⟩
  · rw [he]
    exact ⟨rfl, ht⟩
  · rw [ht] at hf
    cases hf
  · rw [he]
    exact ⟨rfl, ht⟩

/-- Outside an untriggered free run a tick counts the delay, then the counter, and nothing reloads (R185). -/
theorem viaTick_t1_counts {v : Via} (h : v.acr.getLsbD 6 = false ∨ v.t1trig = true) :
    (viaTick v).t1pre = v.t1pre - 1 ∧ (viaTick v).t1c = v.t1c - BitVec.ofNat 16 (1 - v.t1pre) := by
  obtain ⟨hc, hp, -⟩ := viaTick_t1 v
  rw [hc, hp]
  rcases tickT1_cases v with ⟨hpre, he⟩ | ⟨hpre, -, ht, he⟩ | ⟨hpre, -, he⟩
  · rw [he, Nat.sub_eq_zero_of_le hpre]
    exact ⟨rfl, (BitVec.sub_zero _).symm⟩
  · have ha : v.acr.getLsbD 6 = false := h.resolve_right (by rw [ht]; decide)
    rw [he, if_neg (by rw [ha]; decide), hpre]
    exact ⟨rfl, rfl⟩
  · rw [he, hpre]
    exact ⟨rfl, rfl⟩

/-- While the ticks are fewer than those left, the flag and the trigger are as before. -/
theorem viaTicks_t1_before (n : Nat) (v : Via) (h : n < v.t1Left) :
    (viaTicks n v).t1Left + n = v.t1Left ∧ (viaTicks n v).t1trig = v.t1trig ∧
      (viaTicks n v).ifr.getLsbD 6 = v.ifr.getLsbD 6 := by
  induction n generalizing v with
  | zero => exact ⟨rfl, rfl, rfl⟩
  | succ n ih =>
    obtain ⟨hleft, htrig, hflag⟩ := viaTick_t1_before (v := v) (by omega)
    obtain ⟨hleft', htrig', hflag'⟩ := ih (viaTick v) (by omega)
    rw [viaTicks]
    exact ⟨by omega, htrig'.trans htrig, hflag'.trans hflag⟩

/-- At the tick that uses up those left, an untriggered timer 1 does what its last tick does. -/
theorem viaTicks_t1_last {v : Via} (ht : v.t1trig = false) :
    (viaTicks v.t1Left v).ifr.getLsbD 6 = true ∧ (viaTicks v.t1Left v).t1trig = !v.acr.getLsbD 6 ∧
      (v.acr.getLsbD 6 = true → (viaTicks v.t1Left v).t1c = v.t1l ∧ (viaTicks v.t1Left v).t1pre = 2) := by
  obtain ⟨m, hm⟩ : ∃ m, v.t1Left = m + 1 :=
    Nat.exists_eq_add_one.mpr (Nat.add_pos_right _ (ticksToZero_pos v.t1c))
  obtain ⟨hleft, htrig, -⟩ := viaTicks_t1_before m v (by omega)
  have hlast := viaTick_t1_last (v := viaTicks m v) (by omega) (htrig.trans ht)
  rw [viaTicks_acr, viaTicks_t1l] at hlast
  rw [hm, viaTicks_add]
  exact hlast

theorem viaTicks_t1_triggered (n : Nat) {v : Via} (ht : v.t1trig = true) :
    (viaTicks n v).ifr.getLsbD 6 = v.ifr.getLsbD 6 ∧ (viaTicks n v).t1trig = true := by
  induction n generalizing v with
  | zero => exact ⟨rfl, ht⟩
  | succ n ih =>
    obtain ⟨hflag, htrig⟩ := viaTick_t1_triggered ht
    obtain ⟨hflag', htrig'⟩ := ih htrig
    exact ⟨hflag'.trans hflag, htrig'⟩

theorem viaTicks_t1_counts (n : Nat) {v : Via} (h : v.acr.getLsbD 6 = false ∨ v.t1trig = true) :
    (viaTicks n v).t1pre = v.t1pre - n ∧ (viaTicks n v).t1c = v.t1c - BitVec.ofNat 16 (n - v.t1pre) := by
  induction n generalizing v with
  | zero => rw [Nat.zero_sub]; exact ⟨rfl, (BitVec.sub_zero _).symm⟩
  | succ n ih =>
    obtain ⟨hpre, hc⟩ := viaTick_t1_counts h
    have hkeeps : (viaTick v).acr.getLsbD 6 = false ∨ (viaTick v).t1trig = true :=
      h.imp (by rw [viaTick_acr]; exact id) fun ht => (viaTick_t1_triggered ht).2
    obtain ⟨hpre', hc'⟩ := ih hkeeps
    have hsum : n + 1 - v.t1pre = (1 - v.t1pre) + (n - (v.t1pre - 1)) := by omega
    rw [viaTicks, hpre', hc', hpre, hc, hsum, BitVec.ofNat_add, sub_add_eq_sub_sub]
    exact ⟨by omega, rfl⟩

/-- Settles O31: the last tick triggers a one-shot timer 1, and a triggered one only counts. -/
theorem oneShotTimerFiresOnce : Obligations.OneShotTimerFiresOnce := by
  intro v n
  refine ⟨fun ha ht => ⟨fun hn => ?_, fun hn => ?_⟩, fun ht => viaTicks_t1_triggered n ht,
    fun h => (viaTicks_t1_counts n h).symm⟩
  · obtain ⟨-, htrig, hflag⟩ := viaTicks_t1_before n v hn
    exact ⟨hflag, htrig.trans ht⟩
  · obtain ⟨m, rfl⟩ : ∃ m, n = v.t1Left + m := Nat.exists_eq_add_of_le hn
    obtain ⟨hflag, htrig, -⟩ := viaTicks_t1_last ht
    rw [ha] at htrig
    obtain ⟨hflag', htrig'⟩ := viaTicks_t1_triggered m htrig
    rw [viaTicks_add]
    exact ⟨hflag'.trans hflag, htrig'⟩

/-- Settles O32: the last tick reloads a free-running timer 1. -/
theorem freeRunTimerIsPeriodic : Obligations.FreeRunTimerIsPeriodic := by
  intro v n ha ht
  refine ⟨fun hn => ?_, ?_⟩
  · obtain ⟨-, htrig, hflag⟩ := viaTicks_t1_before n v hn
    exact ⟨hflag, htrig.trans ht⟩
  · rintro rfl
    obtain ⟨hflag, htrig, hreload⟩ := viaTicks_t1_last ht
    obtain ⟨hc, hpre⟩ := hreload ha
    rw [ha] at htrig
    exact ⟨hflag, hc, hpre, htrig, viaTicks_t1l _ v, viaTicks_acr _ v⟩

/-! ### Timer 2 -/

/-- One tick of timer 2 by its fields: held, or counting and triggered by the expiry (R186). -/
theorem viaTick_t2 (v : Via) :
    (viaTick v).t2c = (if v.acr.getLsbD 5 then v.t2c else v.t2c - 1) ∧
      (viaTick v).t2trig = (v.t2trig || (!v.acr.getLsbD 5 && decide (v.t2c = 1))) := by
  have hframe : (viaTick v).t2c = (tickT2 v).t2c ∧ (viaTick v).t2trig = (tickT2 v).t2trig := by
    rw [viaTick_frame]
    exact ⟨rfl, rfl⟩
  obtain ⟨hc, ht⟩ := hframe
  rw [hc, ht]
  rcases tickT2_cases v with ⟨ha, he⟩ | ⟨ha, hz, -, he⟩ | ⟨ha, hz, he⟩ <;> rw [he, ha]
  · exact ⟨rfl, (Bool.or_false _).symm⟩
  · rw [decide_eq_true (sub_eq_zero.mp hz)]
    exact ⟨rfl, (Bool.or_true _).symm⟩
  · refine ⟨rfl, ?_⟩
    cases htrig : v.t2trig with
    | true => rfl
    | false =>
      have hne : v.t2c ≠ 1 := fun h1 => hz ⟨sub_eq_zero.mpr h1, htrig⟩
      rw [decide_eq_false hne]
      rfl

/-- R186: in pulse-counting mode timer 2 is held. -/
theorem viaTicks_t2_held (n : Nat) {v : Via} (ha : v.acr.getLsbD 5 = true) :
    (viaTicks n v).t2c = v.t2c ∧ (viaTicks n v).t2trig = v.t2trig ∧
      (viaTicks n v).ifr.getLsbD 5 = v.ifr.getLsbD 5 := by
  induction n generalizing v with
  | zero => exact ⟨rfl, rfl, rfl⟩
  | succ n ih =>
    obtain ⟨hc, ht⟩ := viaTick_t2 v
    have hflag := viaTick_flagT2 v
    obtain ⟨hc', ht', hflag'⟩ := ih (v := viaTick v) (by rw [viaTick_acr, ha])
    simp only [ha, if_true, Bool.not_true, Bool.false_and, Bool.or_false] at hc ht hflag
    exact ⟨hc'.trans hc, ht'.trans ht, hflag'.trans hflag⟩

/-- An expiry within `n + 1` ticks is at the first tick, or within `n` of the counter after it. -/
theorem ticksToZero_le_succ (c : BitVec 16) (n : Nat) :
    decide (ticksToZero c ≤ n + 1) = (decide (c = 1) || decide (ticksToZero (c - 1) ≤ n)) := by
  by_cases h : c = 1
  · have hone := (ticksToZero_eq_one c).mpr h
    rw [decide_eq_true h, Bool.true_or, decide_eq_true (by omega)]
  · have hsub := ticksToZero_sub_one h
    rw [decide_eq_false h, Bool.false_or, decide_eq_decide]
    omega

/-- One expiry now and one among later ticks set the flag once: the first triggers. -/
theorem fires_now_or_later : ∀ flag trig now later : Bool,
    ((flag || (!trig && now)) || (!(trig || now) && later)) = (flag || (!trig && (now || later))) := by
  decide

/-- R186: the counter, the trigger and the flag after `n` ticks of a timer 2 that is not held. -/
theorem viaTicks_t2_counts (n : Nat) {v : Via} (ha : v.acr.getLsbD 5 = false) :
    (viaTicks n v).t2c = v.t2c - BitVec.ofNat 16 n ∧
      (viaTicks n v).t2trig = (v.t2trig || decide (ticksToZero v.t2c ≤ n)) ∧
      (viaTicks n v).ifr.getLsbD 5 = (v.ifr.getLsbD 5 || (!v.t2trig && decide (ticksToZero v.t2c ≤ n))) := by
  induction n generalizing v with
  | zero =>
    have hpos := ticksToZero_pos v.t2c
    rw [decide_eq_false (by omega), Bool.and_false, Bool.or_false, Bool.or_false]
    exact ⟨(BitVec.sub_zero _).symm, rfl, rfl⟩
  | succ n ih =>
    obtain ⟨hc, ht⟩ := viaTick_t2 v
    have hflag := viaTick_flagT2 v
    obtain ⟨hc', ht', hflag'⟩ := ih (v := viaTick v) (by rw [viaTick_acr, ha])
    simp only [ha, Bool.false_eq_true, if_false, Bool.not_false, Bool.true_and] at hc ht hflag
    rw [viaTicks, hc', ht', hflag', hc, ht, hflag, ticksToZero_le_succ]
    refine ⟨?_, Bool.or_assoc .., fires_now_or_later ..⟩
    rw [Nat.add_comm n 1, BitVec.ofNat_add, sub_add_eq_sub_sub]
    rfl

/-- Settles O33: held in pulse-counting mode, counting otherwise. -/
theorem timerTwoFiresOnce : Obligations.TimerTwoFiresOnce :=
  fun _ n => ⟨viaTicks_t2_held n, viaTicks_t2_counts n⟩

/-! ### The edge detector -/

/-- R187: CA1 has changed, to the level that PCR[0] selects. -/
theorem ca1_edge_eq : ∀ line prev control : Bool,
    decide (line ≠ prev ∧ line = control) =
      (decide (line ≠ prev) && ((control && line) || (!control && !line))) := by
  decide

/-- The edge detector sets the flag of CA1 on the selected edge. -/
theorem tickEdges_flagCa1 (v : Via) :
    (tickEdges v).ifr.getLsbD 1 =
      (v.ifr.getLsbD 1 || decide (v.ca1 ≠ v.ca1Prev ∧ v.ca1 = v.pcr.getLsbD 0)) := by
  rw [tickEdges]
  dsimp only
  split
  · rw [setFlags_getLsbD, decide_eq_true ‹_›]
    rfl
  · rw [decide_eq_false ‹_›, Bool.or_false]

/-- After a tick the flag of CA1 is what the edge detector makes it; the timers leave the lines alone. -/
theorem viaTick_flagCa1 (v : Via) :
    (viaTick v).ifr.getLsbD 1 =
      (v.ifr.getLsbD 1 || decide (v.ca1 ≠ v.ca1Prev ∧ v.ca1 = v.pcr.getLsbD 0)) := by
  have kept : (tickT2 (tickT1 v)).ifr.getLsbD 1 = v.ifr.getLsbD 1 :=
    (getLsbD_of_setFlags (tickT2_ifr _) (by decide)).trans (getLsbD_of_setFlags (tickT1_ifr v) (by decide))
  rw [viaTick, tickEdges_flagCa1, kept, tickT2_frame, tickT1_frame]

/-- Settles O34: the flag by `viaTick_flagCa1`, the samples and the lines by the frame of a tick. -/
theorem edgeDetectorSetsOnlyTheSelectedEdge : Obligations.EdgeDetectorSetsOnlyTheSelectedEdge := by
  intro v
  refine ⟨?_, ?_⟩
  · rw [viaTick_flagCa1, ca1_edge_eq]
  · rw [viaTick_frame]
    exact ⟨rfl, rfl, rfl, rfl, rfl, rfl, rfl, rfl⟩

end Sys2Proof.Machine
end

section
/-! The video registers (R40, R42, R63, R200 to R214): what their rows do, and the derived geometry as numbers. -/

namespace Sys2Proof.Machine

/-! ### Fields of a byte as numbers -/

/-- The field v[lo + n - 1 : lo] as a number (R8). -/
theorem extractLsb'_toNat_eq_div {w : Nat} (v : BitVec w) (lo n : Nat) :
    (v.extractLsb' lo n).toNat = v.toNat / 2 ^ lo % 2 ^ n := by
  rw [BitVec.extractLsb'_toNat, Nat.shiftRight_eq_div_pow]

/-- The low `n` bits, v[n - 1 : 0]. -/
theorem extractLsb'_low_toNat {w : Nat} (v : BitVec w) (n : Nat) : (v.extractLsb' 0 n).toNat = v.toNat % 2 ^ n := by
  rw [BitVec.extractLsb'_toNat, Nat.shiftRight_zero]

/-- The field that reaches the top of its word needs no modulus. -/
theorem extractLsb'_top_toNat {lo n : Nat} (v : BitVec (lo + n)) :
    (v.extractLsb' lo n).toNat = v.toNat / 2 ^ lo := by
  rw [extractLsb'_toNat_eq_div, Nat.mod_eq_of_lt]
  exact Nat.div_lt_of_lt_mul (Nat.pow_add 2 lo n ▸ v.isLt)

/-- A concatenation as a number, {hi, lo} (R8). -/
theorem append_toNat_eq_add {m n : Nat} (hi : BitVec m) (lo : BitVec n) :
    (hi ++ lo).toNat = hi.toNat * 2 ^ n + lo.toNat := by
  rw [BitVec.toNat_append, ← Nat.shiftLeft_add_eq_or_of_lt lo.isLt, Nat.shiftLeft_eq]

theorem getLsbD_eq_decide {w : Nat} (v : BitVec w) (i : Nat) : v.getLsbD i = decide (v.toNat / 2 ^ i % 2 = 1) := by
  rw [← BitVec.testBit_toNat, Nat.testBit_eq_decide_div_mod_eq]

/-! ### VicRead -/

/-- A RD row gives what VicRead gives for its register (R91, R200). -/
theorem exec_rdVicRow_eq (r : Fin 16) (s : State) :
    exec (rdVicRow r) s = .next { s with result := .byte (vicRead r s) } := by
  rw [exec_rdVicRow, ← vicRead_eq_busRead, readDone]

/-- R202: every register but the two of the raster reads as stored. -/
theorem vicRead_of_stored {r : Fin 16} (s : State) (h3 : r ≠ 3) (h4 : r ≠ 4) : vicRead r s = s.vic.reg r := by
  rw [vicRead]
  split
  · exact absurd (Fin.ext ‹r.val = 3›) h3
  · exact absurd (Fin.ext ‹r.val = 4›) h4
  · rfl

/-- R203: register 3 has the parity of the scan line above its own seven bits. -/
theorem vicRead_three_toNat (s : State) :
    (vicRead 3 s).toNat = s.vic.vpos % 2 * 128 + (s.vic.reg 3).toNat % 128 := by
  have parity : (BitVec.ofBool (s.vic.vpos.testBit 0)).toNat = s.vic.vpos % 2 := by
    rw [BitVec.toNat_ofBool, Nat.toNat_testBit, pow_zero, Nat.div_one]
  calc (vicRead 3 s).toNat
    _ = (BitVec.ofBool (s.vic.vpos.testBit 0)).toNat * 2 ^ 7 + ((s.vic.reg 3).extractLsb' 0 7).toNat :=
        append_toNat_eq_add _ _
    _ = s.vic.vpos % 2 * 2 ^ 7 + (s.vic.reg 3).toNat % 2 ^ 7 := by rw [parity, extractLsb'_low_toNat]

/-- R203: register 4 reads the scan line's bits 8 to 1. -/
theorem vicRead_four_toNat (s : State) : (vicRead 4 s).toNat = s.vic.vpos / 2 % 256 := by
  calc (vicRead 4 s).toNat
    _ = (BitVec.ofNat 9 s.vic.vpos).toNat / 2 ^ 1 % 2 ^ 8 := extractLsb'_toNat_eq_div ..
    _ = s.vic.vpos % 2 ^ 9 / 2 ^ 1 % 2 ^ 8 := by rw [BitVec.toNat_ofNat]
    _ = _ := by omega

/-- Settles O18: VicRead by its three cases. -/
theorem videoRegisterReads : Obligations.VideoRegisterReads := by
  intro r s
  refine ⟨vicRead r s, exec_rdVicRow_eq r s, vicRead_of_stored s, ?_, ?_⟩
  · rintro rfl
    exact vicRead_three_toNat s
  · rintro rfl
    exact vicRead_four_toNat s

/-! ### VicWrite -/

/-- A WR row leaves what VicWrite leaves for its register (R91, R201). -/
theorem exec_wrVicRow_eq (r : Fin 16) (d : Byte) (s : State) : exec (wrVicRow r d) s = .next (vicWrite r d s) := by
  rw [exec_wrVicRow, ← vicWrite_eq_busWrite, writeDone]

/-- The registers after a write. -/
theorem vicWrite_reg (r q : Fin 16) (d : Byte) (s : State) :
    (vicWrite r d s).vic.reg q = if q = r then d else s.vic.reg q := by
  simp only [vicWrite, Vic.reg, Fin.getElem_fin, Vector.getElem_set, Fin.val_inj, eq_comm (a := r)]

@[simp] theorem vicWrite_reg_same (r : Fin 16) (d : Byte) (s : State) : (vicWrite r d s).vic.reg r = d := by
  rw [vicWrite_reg, if_pos rfl]

theorem vicWrite_reg_of_ne {r q : Fin 16} (h : q ≠ r) (d : Byte) (s : State) :
    (vicWrite r d s).vic.reg q = s.vic.reg q := by
  rw [vicWrite_reg, if_neg h]

/-- Settles O19: the row is VicWrite, which is an update of the register file. -/
theorem videoRegisterWrites : Obligations.VideoRegisterWrites :=
  fun r d s => ⟨vicWrite r d s, exec_wrVicRow_eq r d s, fun q => vicWrite_reg r q d s, rfl⟩

/-! ### The derived geometry (R42) -/

theorem cols_eq (s : State) : cols s = (s.vic.reg 2).toNat % 128 :=
  extractLsb'_low_toNat (s.vic.reg 2) 7

theorem rows_eq (s : State) : rows s = (s.vic.reg 3).toNat / 2 % 64 :=
  extractLsb'_toNat_eq_div (s.vic.reg 3) 1 6

theorem charH_eq (s : State) : charH s = if (s.vic.reg 3).toNat % 2 = 1 then 16 else 8 := by
  simp only [charH, getLsbD_eq_decide, pow_zero, Nat.div_one, decide_eq_true_eq]

theorem charH_cases (s : State) : charH s = 8 ∨ charH s = 16 := by
  rw [charH]
  split
  · exact .inr rfl
  · exact .inl rfl

theorem leftEdge_eq (s : State) : leftEdge s = (s.vic.reg 0).toNat % 128 * 4 + s.params.hBias := by
  rw [leftEdge, extractLsb'_low_toNat]
  rfl

/-- The matrix base of register 5's high nibble and register 2's top bit. -/
theorem screenVa_toNat (s : State) :
    (screenVa s).toNat = (s.vic.reg 5).toNat / 16 * 1024 + (s.vic.reg 2).toNat / 128 * 512 := by
  have h2 : ((s.vic.reg 2).extractLsb' 7 1).toNat = (s.vic.reg 2).toNat / 128 := extractLsb'_top_toNat (lo := 7) _
  have h5 : ((s.vic.reg 5).extractLsb' 4 4).toNat = (s.vic.reg 5).toNat / 16 := extractLsb'_top_toNat (lo := 4) _
  rw [screenVa, append_toNat_eq_add, append_toNat_eq_add, h2, h5, BitVec.toNat_zero]
  omega

theorem charVa_toNat (s : State) : (charVa s).toNat = (s.vic.reg 5).toNat % 16 * 1024 := by
  rw [charVa, append_toNat_eq_add, extractLsb'_low_toNat, BitVec.toNat_zero]
  omega

theorem colorBase_toNat (s : State) : (colorBase s).toNat = 0x9400 + (s.vic.reg 2).toNat / 128 * 512 := by
  have hlt := (s.vic.reg 2).isLt
  simp only [colorBase, getLsbD_eq_decide, decide_eq_true_eq]
  split
  · simp only [BitVec.reduceToNat]
    omega
  · simp only [BitVec.reduceToNat]
    omega

theorem auxColor_toNat (s : State) : (auxColor s).toNat = (s.vic.reg 14).toNat / 16 :=
  extractLsb'_top_toNat (lo := 4) (n := 4) (s.vic.reg 14)

theorem backgroundColor_toNat (s : State) : (backgroundColor s).toNat = (s.vic.reg 15).toNat / 16 :=
  extractLsb'_top_toNat (lo := 4) (n := 4) (s.vic.reg 15)

theorem borderColor_toNat (s : State) : (borderColor s).toNat = (s.vic.reg 15).toNat % 8 := by
  rw [borderColor, append_toNat_eq_add, extractLsb'_low_toNat, BitVec.toNat_zero, Nat.zero_mul, Nat.zero_add]
  rfl

theorem inverted_eq (s : State) : inverted s = decide ((s.vic.reg 15).toNat / 8 % 2 = 0) := by
  rw [inverted, getLsbD_eq_decide, ← decide_not, decide_eq_decide]
  omega

/-- The video address map, its two halves exchanged (R63). -/
theorem va2cpu_toNat (va : VideoAddr) :
    (va2cpu va).toNat = if va.toNat < 0x2000 then va.toNat + 0x8000 else va.toNat - 0x2000 := by
  have hlt := va.isLt
  simp only [va2cpu, getLsbD_eq_decide, decide_eq_true_eq]
  split
  · rw [append_toNat_eq_add, extractLsb'_low_toNat, if_neg (by omega), BitVec.toNat_ofNat]
    omega
  · rw [append_toNat_eq_add, extractLsb'_low_toNat, if_pos (by omega), BitVec.toNat_ofNat]
    omega

end Sys2Proof.Machine
end

section
/-! The character area and its pixels (R217 to R224), and the geometry that a register write makes (R206 to R214). -/

namespace Sys2Proof.Machine

/-! ### The character area -/

theorem inArea_iff (px y : Nat) (s : State) :
    inArea px y s = true ↔
      leftEdge s ≤ px ∧ px < leftEdge s + areaW s ∧ topEdge s ≤ y ∧ y < topEdge s + areaH s := by
  simp only [inArea, Bool.and_eq_true, decide_eq_true_eq, and_assoc]

/-- R219. -/
theorem pixelColor_of_not_inArea {px y : Nat} {s : State} (h : ¬inArea px y s = true) :
    pixelColor px y s = borderColor s := by
  rw [pixelColor, if_neg h]

/-- Without columns the area is empty. -/
theorem pixelColor_of_no_cols {s : State} (h : cols s = 0) (px y : Nat) : pixelColor px y s = borderColor s := by
  refine pixelColor_of_not_inArea fun hin => ?_
  obtain ⟨hleft, hright, -, -⟩ := (inArea_iff px y s).mp hin
  rw [areaW, h] at hright
  omega

/-- Without rows the area is empty. -/
theorem pixelColor_of_no_rows {s : State} (h : rows s = 0) (px y : Nat) : pixelColor px y s = borderColor s := by
  refine pixelColor_of_not_inArea fun hin => ?_
  obtain ⟨-, -, htop, hbottom⟩ := (inArea_iff px y s).mp hin
  rw [areaH, h, Nat.zero_mul] at hbottom
  omega

/-- Settles O39: outside the area a pixel is the border, whose index is a field of register 15. -/
theorem borderOutsideTheCharacterArea : Obligations.BorderOutsideTheCharacterArea := by
  intro px y s hout
  rw [pixelColor_of_not_inArea ((inArea_iff px y s).not.mpr hout), borderColor_toNat]

/-- Settles O42: LEFT and the width of the area are multiples of 4, so no edge of the area or of a half cell falls
inside a group. -/
theorem groupsNeverStraddleACell : Obligations.GroupsNeverStraddleACell := by
  intro x y i s hbias hx hi
  have hleft : leftEdge s % 4 = 0 := by rw [leftEdge]; omega
  have hwidth : areaW s % 4 = 0 := by rw [areaW]; omega
  have hlo : leftEdge s ≤ x + i ↔ leftEdge s ≤ x := by omega
  have hhi : x + i < leftEdge s + areaW s ↔ x < leftEdge s + areaW s := by omega
  refine ⟨?_, fun _ => by omega⟩
  rw [Bool.eq_iff_iff, inArea_iff, inArea_iff, hlo, hhi]

/-! ### A register write and the geometry -/

/-- The border stays when another register than 15 is written. -/
theorem borderColor_vicWrite {r : Fin 16} (h : 15 ≠ r) (d : Byte) (s : State) :
    borderColor (vicWrite r d s) = borderColor s := by
  rw [borderColor, vicWrite_reg_of_ne h, ← borderColor]

/-- R208: with the low seven bits of register 2 clear every pixel is border. -/
theorem pixelColor_vicWrite_two {d : Byte} (h : d.toNat % 128 = 0) (px y : Nat) (s : State) :
    pixelColor px y (vicWrite 2 d s) = borderColor s := by
  have hcols : cols (vicWrite 2 d s) = 0 := by rw [cols_eq, vicWrite_reg_same, h]
  rw [pixelColor_of_no_cols hcols, borderColor_vicWrite (by decide)]

/-- R209: with bits 6 to 1 of register 3 clear every pixel is border. -/
theorem pixelColor_vicWrite_three {d : Byte} (h : d.toNat / 2 % 64 = 0) (px y : Nat) (s : State) :
    pixelColor px y (vicWrite 3 d s) = borderColor s := by
  have hrows : rows (vicWrite 3 d s) = 0 := by rw [rows_eq, vicWrite_reg_same, h]
  rw [pixelColor_of_no_rows hrows, borderColor_vicWrite (by decide)]

/-- Settles O20: each derived value is its function of the registers, and the register written holds the byte. -/
theorem geometryFollowsRegisterWrites : Obligations.GeometryFollowsRegisterWrites := by
  intro d s
  have two_kept : (vicWrite 5 d s).vic.reg 2 = s.vic.reg 2 := vicWrite_reg_of_ne (by decide) d s
  have five_kept : (vicWrite 2 d s).vic.reg 5 = s.vic.reg 5 := vicWrite_reg_of_ne (by decide) d s
  simp only [leftEdge_eq, topEdge, cols_eq, rows_eq, charH_eq, screenVa_toNat, charVa_toNat, colorBase_toNat,
    auxColor_toNat, backgroundColor_toNat, borderColor_toNat, inverted_eq, vicWrite_reg_same, two_kept, five_kept,
    State.vicWrite_params, implies_true, and_true, true_and]
  exact ⟨fun h x y => pixelColor_vicWrite_two h x y s, fun h x y => pixelColor_vicWrite_three h x y s⟩

/-! ### Addresses of the three fetches -/

/-- The glyph row's address in video space, modulo 2^14 (R218). -/
theorem glyphAddr_toNat (code : Byte) (gr : Nat) (s : State) :
    (glyphAddr code gr s).toNat =
      let va := ((charVa s).toNat + (code.toNat * charH s + gr)) % 2 ^ 14
      if va < 0x2000 then va + 0x8000 else va - 0x2000 := by
  rw [glyphAddr, va2cpu_toNat, BitVec.toNat_add, BitVec.toNat_ofNat, Nat.add_mod_mod]

/-- A character set has at most 256 glyphs of 16 rows. -/
theorem glyphOffset_lt {code : Byte} {gr : Nat} {s : State} (h : gr < charH s) : code.toNat * charH s + gr < 4096 := by
  have hcode := code.isLt
  rcases charH_cases s with hh | hh <;> rw [hh] at h ⊢ <;> omega

/-- Settles O41: CHAR_VA is at most 0x3C00 and the glyph's offset in its set below 0x1000, so the sum crosses at most
one of the two ends of video space. -/
theorem glyphAddressFolds : Obligations.GlyphAddressFolds := by
  intro code gr s hgr
  have hoff := glyphOffset_lt (code := code) hgr
  have hset : (charVa s).toNat ≤ 0x3C00 ∧ (charVa s).toNat % 0x400 = 0 := by
    rw [charVa_toNat]
    omega
  dsimp only
  rw [glyphAddr_toNat, charBase, va2cpu_toNat, Nat.add_assoc]
  dsimp only
  split <;> split <;> omega

/-- An index added to a base, both as numbers, modulo 2^w. -/
theorem add_ofNat_eq_ofNat {w : Nat} (base : BitVec w) (i : Nat) :
    base + BitVec.ofNat w i = BitVec.ofNat w (base.toNat + i) := by
  rw [BitVec.ofNat_add, BitVec.ofNat_toNat, BitVec.setWidth_eq]

/-! ### The colour of a cell's pixel -/

/-- The foreground is the nibble without its top bit. -/
theorem foreground_eq_ofNat : ∀ cnib : BitVec 4, 0#1 ++ cnib.extractLsb' 0 3 = BitVec.ofNat 4 (cnib.toNat % 8) := by
  decide

/-- The colour nibble's top bit selects multicolour (R220, R221). -/
theorem colorMode_iff : ∀ cnib : BitVec 4, cnib.getLsbD 3 = true ↔ 8 ≤ cnib.toNat := by
  decide

/-- R220: under INVERT a set bit selects the background, else a clear one. -/
theorem hiresColor_eq (bits : Byte) (cnib : BitVec 4) (b : Nat) (s : State) :
    hiresColor bits cnib b s =
      if bits.getLsbD (7 - b) = inverted s then backgroundColor s else BitVec.ofNat 4 (cnib.toNat % 8) := by
  rw [hiresColor, foreground_eq_ofNat]
  cases inverted s <;> cases bits.getLsbD (7 - b) <;> rfl

/-- A bit pair as its two bits. -/
theorem extractLsb'_two_eq (v : Byte) (lo : Nat) :
    v.extractLsb' lo 2 = BitVec.ofBool (v.getLsbD (lo + 1)) ++ BitVec.ofBool (v.getLsbD lo) := by
  apply BitVec.eq_of_getLsbD_eq
  intro i hi
  have hi : i = 0 ∨ i = 1 := by omega
  rw [BitVec.getLsbD_append, BitVec.getLsbD_extractLsb']
  rcases hi with rfl | rfl
  · simp
  · simp

/-- R221: the four colours of a bit pair. -/
theorem multiColor_eq (bits : Byte) (cnib : BitVec 4) {b : Nat} (hb : b < 8) (s : State) :
    multiColor bits cnib b s =
      match bits.getLsbD (7 - 2 * (b / 2)), bits.getLsbD (6 - 2 * (b / 2)) with
      | false, false => backgroundColor s
      | false, true => borderColor s
      | true, false => BitVec.ofNat 4 (cnib.toNat % 8)
      | true, true => auxColor s := by
  have hpair : 6 - 2 * (b / 2) + 1 = 7 - 2 * (b / 2) := by omega
  rw [multiColor, foreground_eq_ofNat, extractLsb'_two_eq, hpair]
  cases bits.getLsbD (7 - 2 * (b / 2)) <;> cases bits.getLsbD (6 - 2 * (b / 2)) <;> rfl

/-! ### A pixel of the area -/

/-- R218: the character code, fetched with no fold of the matrix address. -/
theorem cellCode_eq (px y : Nat) (s : State) :
    cellCode px y s = videoRead (BitVec.ofNat 16 ((screenBase s).toNat + cellIndex px y s)) s := by
  rw [cellCode, add_ofNat_eq_ofNat]

/-- R218: the colour nibble is the low half of its byte. -/
theorem cellColor_toNat (px y : Nat) (s : State) :
    (cellColor px y s).toNat =
      (videoRead (BitVec.ofNat 16 ((colorBase s).toNat + cellIndex px y s)) s).toNat % 16 := by
  rw [cellColor, add_ofNat_eq_ofNat]
  exact extractLsb'_low_toNat _ 4

/-- R218, R223: the glyph byte, at the address formed in video space. -/
theorem cellBits_eq (px y : Nat) (s : State) :
    cellBits px y s =
      videoRead (va2cpu (BitVec.ofNat 14
        ((charVa s).toNat + (cellCode px y s).toNat * charH s + (y - topEdge s) % charH s))) s := by
  rw [cellBits, glyphAddr, add_ofNat_eq_ofNat, Nat.add_assoc]

/-- R220: in the area, a nibble below 8 gives a hi-resolution pixel. -/
theorem pixelColor_of_hires {px y : Nat} {s : State} (hin : inArea px y s = true) (h : (cellColor px y s).toNat < 8) :
    pixelColor px y s = hiresColor (cellBits px y s) (cellColor px y s) ((px - leftEdge s) % 8) s := by
  rw [pixelColor, if_pos hin]
  exact if_neg fun hmode => absurd ((colorMode_iff _).mp hmode) (Nat.not_le.mpr h)

/-- R221: in the area, a nibble of 8 or more gives a multicolour pixel. -/
theorem pixelColor_of_multicolor {px y : Nat} {s : State} (hin : inArea px y s = true)
    (h : 8 ≤ (cellColor px y s).toNat) :
    pixelColor px y s = multiColor (cellBits px y s) (cellColor px y s) ((px - leftEdge s) % 8) s := by
  rw [pixelColor, if_pos hin]
  exact if_pos ((colorMode_iff _).mpr h)

/-- Settles O40: the three fetches are those of the cell, and the nibble chooses between the two modes. -/
theorem characterPixels : Obligations.CharacterPixels := by
  intro px y s hleft hright htop hbottom
  have hin : inArea px y s = true := (inArea_iff px y s).mpr ⟨hleft, hright, htop, hbottom⟩
  dsimp only
  rw [← cellIndex, ← cellCode_eq, ← cellColor_toNat, ← cellBits_eq]
  refine ⟨fun h => ?_, fun h => ?_⟩
  · rw [pixelColor_of_hires hin h, hiresColor_eq]
  · exact (pixelColor_of_multicolor hin h).trans (multiColor_eq _ _ (Nat.mod_lt _ (by decide)) s)

end Sys2Proof.Machine
end

section
/-! TICK as a whole (R215 to R217, R222, R252 to R254, R295): the scan it advances to and the events it records, in
order. -/

namespace Sys2Proof.Machine

/-- R216: the four bounds of the active window. -/
theorem inActive_iff (x y : Nat) (p : Config.Params) :
    inActive x y p = true ↔ p.activeX0 ≤ x ∧ x < p.activeX1 ∧ p.activeY0 ≤ y ∧ y < p.activeY1 := by
  simp only [inActive, Bool.and_eq_true, decide_eq_true_eq, and_assoc]

/-- R215: the position after the advance, each coordinate by its own condition. -/
theorem advanceScan_eq (p : Config.Params) (v : Vic) :
    advanceScan p v =
      { v with
        hpos := if p.htotal ≤ v.hpos + p.stride then 0 else v.hpos + p.stride
        vpos :=
          if p.htotal ≤ v.hpos + p.stride then (if p.vtotal ≤ v.vpos + 1 then 0 else v.vpos + 1) else v.vpos } := by
  rcases advanceScan_cases p v with ⟨hin, h⟩ | ⟨hout, hline, h⟩ | ⟨hout, hlast, h⟩ <;> rw [h]
  · simp only [if_neg (Nat.not_le.mpr hin)]
  · simp only [if_pos hout, if_neg (Nat.not_le.mpr hline)]
  · simp only [if_pos hout, if_pos hlast]

/-- The pixels of VicTick: the group at the position reached, inside the active window (R215 to R217). -/
def tickPixels (s : State) : List Event :=
  let v := advanceScan s.params s.vic
  if inActive v.hpos v.vpos s.params then groupPixels v.hpos v.vpos s.params.stride { s with vic := v } else []

/-- VicTick advances the scan and records its pixels, the first of them deepest in the history. -/
theorem vicTick_eq (s : State) :
    vicTick s =
      { s with vic := advanceScan s.params s.vic, events := (tickPixels s).reverse ++ s.events } := by
  simp only [vicTick, tickPixels]
  split
  · rfl
  · rfl

/-- The rest of the fan-out does not reach what a pixel depends on. -/
theorem tickPixels_congr (s t : State) (hp : t.params = s.params) (hr : t.ram = s.ram)
    (he : t.expram = s.expram) (hc : t.cart = s.cart) (hv : t.vic = s.vic) : tickPixels t = tickPixels s := by
  have hscan : advanceScan t.params t.vic = advanceScan s.params s.vic := by rw [hp, hv]
  simp only [tickPixels]
  rw [groupPixels_congr { s with vic := advanceScan s.params s.vic } { t with vic := advanceScan t.params t.vic }
    _ _ _ hp hr he hc hscan, hscan, hp]

/-- The CPU's answer depends on the CPU alone. -/
theorem askIrqEnabled_congr (s t : State) (h : t.cpu = s.cpu) : (askIrqEnabled t).1 = (askIrqEnabled s).1 := by
  simp only [askIrqEnabled, h]
  cases s.cpu.irqAnswers <;> rfl

theorem reverse_ite_singleton (c : Bool) (e : Event) :
    (if c then [e] else []).reverse = if c then [e] else [] := by
  cases c <;> rfl

/-- R252: a tick records CpuNmi, then CpuIrq, then its pixels; the history is newest first. -/
theorem tick_events (s : State) :
    (tick s).events =
      ((if irqLine (viaTick s.via1) && !s.nmiPrev then [Event.cpuNmi] else []) ++
        (if irqLine (viaTick s.via2) && (askIrqEnabled s).1 then [Event.cpuIrq] else []) ++ tickPixels s).reverse ++
      s.events := by
  rw [List.reverse_append, List.reverse_append, reverse_ite_singleton, reverse_ite_singleton, tick, vicTick_eq,
    tickPixels_congr s, tickVia2_eq, askIrqEnabled_congr s, tickVia1_eq]
  · simp only [List.append_assoc]
  all_goals simp only [tickVia2_eq, tickVia1_eq]

/-- Settles O35: the frame of a tick with its events. -/
theorem tickFansOutInOrder : Obligations.TickFansOutInOrder := by
  intro s
  have hexec : exec .tick s = .next (tick s) := rfl
  rw [hexec, tick_frame, tick_events, askIrqEnabled_frame, tickPixels]
  simp only [inActive_iff, groupPixels]
  rw [advanceScan_eq]

end Sys2Proof.Machine
end

section
/-! The live values of the ports under the default wiring table (R259 to R262). -/

namespace Sys2Proof.Machine

/-- A bit of a port's live value is the level of the term the wiring gives it (R259). -/
theorem portLive_getLsbD (s : State) (k : ViaId) (p : Port) (i : Fin 8) :
    (portLive s k p).getLsbD i.val = s.liveLevel (portBits s.params.wiring k p)[i] :=
  State.liveByte_getLsbD s _ i

/-- The rows of R259's table: the four switches of VIA1 port A, nothing on VIA1 port B, the keyboard rows on VIA2
port A, the fifth switch on VIA2 port B. -/
theorem defaultWiring_via1A (i : Fin 8) :
    Config.defaultWiring.via1A[i] =
      if i = 2 then Config.activeLow .up else if i = 3 then Config.activeLow .down
      else if i = 4 then Config.activeLow .left else if i = 5 then Config.activeLow .fire else .high := by
  revert i
  decide

theorem defaultWiring_via1B (i : Fin 8) : Config.defaultWiring.via1B[i] = .high := by
  revert i
  decide

theorem defaultWiring_via2A (i : Fin 8) :
    Config.defaultWiring.via2A[i] = Config.keyRow (.pin .via2 .b) i := by
  revert i
  decide

theorem defaultWiring_via2B (i : Fin 8) :
    Config.defaultWiring.via2B[i] = if i = 7 then Config.activeLow .right else .high := by
  revert i
  decide

@[simp] theorem State.liveLevel_activeLow (s : State) (b : Button) :
    s.liveLevel (Config.activeLow b) = !s.joy b := rfl

/-- A pin reads low exactly when it is an output that drives 0 (R261). -/
theorem State.pinLevels_b_eq_false_iff (s : State) (k : ViaId) (c : Fin 8) :
    (s.pinLevels k .b).getLsbD c.val = false ↔
      (s.via k).ddrb.getLsbD c.val = true ∧ (s.via k).orb.getLsbD c.val = false := by
  rw [State.pinLevels_getLsbD_b]
  cases (s.via k).ddrb.getLsbD c.val <;> simp

/-- Settles O25: each bit is the level of its term in the table, and a keyboard row's level is `liveLevel_keyRow`. -/
theorem portLiveValuesFollowTheWiring : Obligations.PortLiveValuesFollowTheWiring := by
  intro s i hw
  simp only [portLive_getLsbD, hw, portBits, defaultWiring_via1A, defaultWiring_via1B, defaultWiring_via2A,
    defaultWiring_via2B]
  refine ⟨?_, rfl, ?_, ?_⟩
  · fin_cases i <;> simp [State.joy]
  · rw [State.liveLevel_keyRow]
    simp only [State.liveLevel_pin, State.pinLevels_b_eq_false_iff, and_assoc]
    rfl
  · fin_cases i <;> simp [State.joy]

end Sys2Proof.Machine
end

section
/-! The delivery of interrupts to the CPU (R253 to R255, R296): what each tick adds to the history, and that no other
operation adds to it. -/

namespace Sys2Proof.Machine

/-! ### What a tick delivers -/

/-- The raster records pixels and nothing else (R217, R222). -/
theorem count_tickPixels {e : Event} (he : ∀ x y c, e ≠ .pixel x y c) (s : State) : (tickPixels s).count e = 0 := by
  refine List.count_eq_zero.mpr fun hmem => ?_
  rw [tickPixels] at hmem
  split at hmem
  · obtain ⟨i, -, hi⟩ := List.mem_map.mp hmem
    exact he _ _ _ hi.symm
  · exact List.not_mem_nil hmem

/-- R253: a tick adds a CpuNmi exactly when VIA1's line rises. -/
theorem eventCount_cpuNmi_tick (s : State) :
    eventCount .cpuNmi (tick s) =
      eventCount .cpuNmi s + if irqLine (viaTick s.via1) && !s.nmiPrev then 1 else 0 := by
  have hpix : (tickPixels s).count .cpuNmi = 0 := count_tickPixels (by simp) s
  simp only [eventCount, tick_events, List.count_append, List.count_reverse, hpix]
  split <;> split <;> simp +arith

/-- R254: a tick adds a CpuIrq exactly when VIA2's line is up and the CPU answers yes. -/
theorem eventCount_cpuIrq_tick (s : State) :
    eventCount .cpuIrq (tick s) =
      eventCount .cpuIrq s + if irqLine (viaTick s.via2) && (askIrqEnabled s).1 then 1 else 0 := by
  have hpix : (tickPixels s).count .cpuIrq = 0 := count_tickPixels (by simp) s
  simp only [eventCount, tick_events, List.count_append, List.count_reverse, hpix]
  split <;> split <;> simp +arith

/-- Settles O36, by induction on the ticks: each adds the rise of its own sample, which is the next NMI_PREV. -/
theorem nmiOncePerTransition : Obligations.NmiOncePerTransition := by
  intro n
  induction n with
  | zero => exact fun s => ⟨rfl, rfl⟩
  | succ n ih =>
    intro s
    obtain ⟨hcount, hprev⟩ := ih (tick s)
    rw [tick_nmiPrev] at hcount hprev
    constructor
    · rw [ticks, hcount, eventCount_cpuNmi_tick, nmiSamples, rises, Nat.add_assoc]
    · rw [ticks, hprev, nmiSamples, List.getLast?_cons, Option.getD_some]

/-- A CPU whose script of answers is spent gives its standing answer (log 14). -/
theorem askIrqEnabled_idle {s : State} (h : s.cpu.irqAnswers = []) : (askIrqEnabled s).1 = s.cpu.irqIdle := by
  simp only [askIrqEnabled, h]

/-- Settles O37, by induction on the ticks: a tick leaves the script spent and the standing answer as it is. -/
theorem irqOnEveryTickWhileAsserted : Obligations.IrqOnEveryTickWhileAsserted := by
  intro n
  induction n with
  | zero => exact fun s _ => ⟨fun _ _ => rfl, fun _ => rfl⟩
  | succ n ih =>
    intro s hspent
    have hspent' : (tick s).cpu.irqAnswers = [] := by rw [tick_irqAnswers, hspent, List.tail_nil]
    obtain ⟨hyes, hno⟩ := ih (tick s) hspent'
    rw [tick_irqIdle] at hyes hno
    have htick := eventCount_cpuIrq_tick s
    rw [askIrqEnabled_idle hspent] at htick
    refine ⟨fun hidle hline => ?_, fun hidle => ?_⟩
    · have hfirst : irqLine (viaTick s.via2) = true := hline 0 (Nat.succ_pos n)
      rw [hidle, hfirst, Bool.and_true, if_pos rfl] at htick
      rw [ticks, hyes hidle fun m hm => hline (m + 1) (Nat.succ_lt_succ hm), htick]
      omega
    · rw [hidle, Bool.and_false, if_neg Bool.false_ne_true] at htick
      rw [ticks, hno hidle, htick, Nat.add_zero]

/-! ### What delivers nothing -/

/-- From the one state to the other no interrupt is delivered and the NMI sample does not move. -/
def NoInterrupt (s t : State) : Prop :=
  eventCount .cpuNmi t = eventCount .cpuNmi s ∧ eventCount .cpuIrq t = eventCount .cpuIrq s ∧ t.nmiPrev = s.nmiPrev

/-- Events that are no interrupt leave both counts as they are. -/
theorem NoInterrupt.of_events {s t : State} {new : List Event} (he : t.events = new ++ s.events)
    (hnmi : .cpuNmi ∉ new) (hirq : .cpuIrq ∉ new) (hprev : t.nmiPrev = s.nmiPrev) : NoInterrupt s t := by
  refine ⟨?_, ?_, hprev⟩
  · rw [eventCount, he, List.count_append, List.count_eq_zero.mpr hnmi, Nat.zero_add, eventCount]
  · rw [eventCount, he, List.count_append, List.count_eq_zero.mpr hirq, Nat.zero_add, eventCount]

/-- R255: a bus access samples no line. -/
theorem noInterrupt_busStable : BusStable NoInterrupt where
  refl _ := ⟨rfl, rfl, rfl⟩
  trans := fun ⟨hn, hi, hp⟩ ⟨hn', hi', hp'⟩ => ⟨hn'.trans hn, hi'.trans hi, hp'.trans hp⟩
  read a s := by
    obtain ⟨new, he, hnmi, hirq⟩ := busRead_events a s
    exact .of_events he hnmi hirq (busRead_nmiPrev a s)
  write a v s := by
    obtain ⟨new, he, hnmi, hirq⟩ := busWrite_events a v s
    exact .of_events he hnmi hirq (busWrite_nmiPrev a v s)
  cpu _ _ := ⟨rfl, rfl, rfl⟩

/-- What an operation other than TICK and FRAME may do: deliver nothing, and keep the NMI sample or reset it. -/
def AtMostResetsNmi (s t : State) : Prop :=
  eventCount .cpuNmi t = eventCount .cpuNmi s ∧ eventCount .cpuIrq t = eventCount .cpuIrq s ∧
    (t.nmiPrev = s.nmiPrev ∨ t.nmiPrev = false)

theorem NoInterrupt.atMostResets {s t : State} (h : NoInterrupt s t) : AtMostResetsNmi s t := by
  obtain ⟨hn, hi, hp⟩ := h
  exact ⟨hn, hi, .inl hp⟩

/-- R320: RESET clears the NMI sample, and what the CPU's own reset does on the bus leaves it cleared. -/
theorem doReset_atMostResetsNmi (s : State) : AtMostResetsNmi s (doReset s) := by
  obtain ⟨hn, hi, hp⟩ := noInterrupt_busStable.cpuReset (resetComponents s)
  exact ⟨hn, hi, .inr hp⟩

theorem loadCart_atMostResetsNmi (a : Addr) (rst : Bool) (buf : List Byte) (s : State) :
    AtMostResetsNmi s (loadCart a rst buf s) := by
  rcases loadCart_cases a rst buf s with h | ⟨c, image, -, h⟩
  · rw [h]
    exact ⟨rfl, rfl, .inl rfl⟩
  · rw [h]
    split
    · exact doReset_atMostResetsNmi { s with cart := s.cart.set c (some image) }
    · exact ⟨rfl, rfl, .inl rfl⟩

theorem setJoy_noInterrupt (pressed : Bool) (b : Button) (s : State) : NoInterrupt s (setJoy pressed b s) := by
  cases b <;> exact ⟨rfl, rfl, rfl⟩

theorem setLine_noInterrupt (k : ViaId) (level : Bool) (l : ControlLine) (s : State) :
    NoInterrupt s (setLine k level l s) := by
  cases k <;> exact ⟨rfl, rfl, rfl⟩

/-- Settles O60, effect by effect: bus accesses and the host operations deliver nothing, and RESET, alone or after an
install, clears the sample. -/
theorem interruptsAreDeliveredOnlyByTicks : Obligations.InterruptsAreDeliveredOnlyByTicks := by
  intro i s t h htick hframe
  change AtMostResetsNmi s t
  cases exec_effect h with
  | read a =>
    exact (noInterrupt_busStable.trans (noInterrupt_busStable.read a s) ⟨rfl, rfl, rfl⟩).atMostResets
  | write a v => exact (noInterrupt_busStable.write a v s).atMostResets
  | video a => exact ⟨rfl, rfl, .inl rfl⟩
  | tick => exact absurd rfl htick
  | frame _ => exact absurd rfl hframe
  | reset => exact doReset_atMostResetsNmi s
  | key p r c => exact ⟨rfl, rfl, .inl rfl⟩
  | joy p b => exact (setJoy_noInterrupt p b s).atMostResets
  | line k level l => exact (setLine_noInterrupt k level l s).atMostResets
  | ramcfg r => exact ⟨rfl, rfl, .inl rfl⟩
  | cart a rst buf => exact loadCart_atMostResetsNmi a rst buf s
  | prg run buf => exact (noInterrupt_busStable.loadPrg (fun _ _ => ⟨rfl, rfl, rfl⟩) buf run s).atMostResets
  | inject buf => exact ⟨rfl, rfl, .inl rfl⟩

end Sys2Proof.Machine
end

section
/-! FRAME (R250, R251, R256, R290): the CPU's script taken step by step, how a frame ends, and the carry from frame to
frame. -/

namespace Sys2Proof.Machine

/-! ### The CPU's script -/

@[simp] theorem cpuStepsTaken_zero (c : Cpu) : cpuStepsTaken 0 c = [] := rfl

/-- The first answer, and the rest of the script's (R251). -/
theorem cpuStepsTaken_succ (n : Nat) (c : Cpu) :
    cpuStepsTaken (n + 1) c =
      (nextCpuStep c.idle c.steps).1 :: cpuStepsTaken n { c with steps := (nextCpuStep c.idle c.steps).2 } := by
  simp only [cpuStepsTaken]
  cases c.steps with
  | nil => simp [List.replicate_succ]
  | cons x rest =>
    simp only [nextCpuStep_cons, List.cons_append, List.take_succ_cons]
    rw [List.replicate_succ', ← List.append_assoc, List.take_append_of_le_length (by simp)]

@[simp] theorem cpuStepsTaken_length (n : Nat) (c : Cpu) : (cpuStepsTaken n c).length = n := by
  simp [cpuStepsTaken]

/-- Fewer answers are the first of more. -/
theorem cpuStepsTaken_isPrefix {m n : Nat} (h : m ≤ n) (c : Cpu) : cpuStepsTaken m c <+: cpuStepsTaken n c := by
  induction m generalizing n c with
  | zero => exact List.nil_prefix
  | succ m ih =>
    obtain ⟨n, rfl⟩ := Nat.exists_eq_add_of_le' (Nat.zero_lt_of_lt h)
    rw [cpuStepsTaken_succ, cpuStepsTaken_succ]
    exact (List.prefix_cons_inj _).mpr (ih (by omega) _)

/-- Every answer is one of the script's or the standing one. -/
theorem mem_cpuStepsTaken {n : Nat} {c : Cpu} {x : CpuStep} (h : x ∈ cpuStepsTaken n c) : x ∈ c.steps ∨ x = c.idle := by
  rcases List.mem_append.mp (List.mem_of_mem_take h) with h | h
  · exact .inl h
  · exact .inr (List.eq_of_mem_replicate h)

@[simp] theorem cyclesOf_nil : cyclesOf [] = 0 := rfl

@[simp] theorem cyclesOf_cons (x : CpuStep) (cs : List CpuStep) : cyclesOf (x :: cs) = x.cycles + cyclesOf cs := rfl

theorem cyclesOf_append (xs ys : List CpuStep) : cyclesOf (xs ++ ys) = cyclesOf xs + cyclesOf ys := by
  simp [cyclesOf]

theorem cyclesOf_taken_mono {m n : Nat} (h : m ≤ n) (c : Cpu) :
    cyclesOf (cpuStepsTaken m c) ≤ cyclesOf (cpuStepsTaken n c) := by
  obtain ⟨rest, hr⟩ := cpuStepsTaken_isPrefix h c
  rw [← hr, cyclesOf_append]
  exact Nat.le_add_right _ _

/-- The last of the answers taken is one more than those before it. -/
theorem cpuStepsTaken_succ_last (n : Nat) (c : Cpu) :
    ∃ x, cpuStepsTaken (n + 1) c = cpuStepsTaken n c ++ [x] := by
  obtain ⟨rest, hr⟩ := cpuStepsTaken_isPrefix (Nat.le_succ n) c
  have hlen := congrArg List.length hr
  simp only [List.length_append, cpuStepsTaken_length] at hlen
  obtain ⟨x, rfl⟩ := List.length_eq_one_iff.mp (show rest.length = 1 by omega)
  exact ⟨x, hr.symm⟩

/-! ### How the frame loop ends -/

/-- From the count `acc` the first `n` CPU steps are the fewest that meet the budget (R250). -/
structure MeetsBudget (budget acc n : Nat) (c : Cpu) : Prop where
  met : budget ≤ acc + cyclesOf (cpuStepsTaken n c)
  fewest : ∀ m, m < n → acc + cyclesOf (cpuStepsTaken m c) < budget
  allRun : ∀ x ∈ cpuStepsTaken n c, 1 ≤ x.cycles

/-- From the count `acc` the first `n` CPU steps run and leave the budget unmet, and the next takes no cycle (R251). -/
structure Stalls (budget acc n : Nat) (c : Cpu) : Prop where
  below : acc + cyclesOf (cpuStepsTaken n c) < budget
  allRun : ∀ x ∈ cpuStepsTaken n c, 1 ≤ x.cycles
  nextZero : (cpuStepsTaken (n + 1) c).getLast?.map CpuStep.cycles = some 0

section Turn

variable {budget acc n : Nat} {c : Cpu}

theorem MeetsBudget.zero (h : budget ≤ acc) : MeetsBudget budget acc 0 c where
  met := h
  fewest m hm := absurd hm (Nat.not_lt_zero m)
  allRun _ hx := absurd hx List.not_mem_nil

/-- One turn of the loop before the budget is met. -/
theorem MeetsBudget.succ (hb : acc < budget) (hpos : 1 ≤ (nextCpuStep c.idle c.steps).1.cycles)
    (h : MeetsBudget budget (acc + (nextCpuStep c.idle c.steps).1.cycles) n
      { c with steps := (nextCpuStep c.idle c.steps).2 }) :
    MeetsBudget budget acc (n + 1) c where
  met := by
    rw [cpuStepsTaken_succ, cyclesOf_cons, ← Nat.add_assoc]
    exact h.met
  fewest m hm := by
    cases m with
    | zero => exact hb
    | succ m =>
      rw [cpuStepsTaken_succ, cyclesOf_cons, ← Nat.add_assoc]
      exact h.fewest m (Nat.lt_of_succ_lt_succ hm)
  allRun := by
    rw [cpuStepsTaken_succ, List.forall_mem_cons]
    exact ⟨hpos, h.allRun⟩

theorem Stalls.zero (hb : acc < budget) (hz : (nextCpuStep c.idle c.steps).1.cycles = 0) : Stalls budget acc 0 c where
  below := hb
  allRun _ hx := absurd hx List.not_mem_nil
  nextZero := by
    rw [cpuStepsTaken_succ]
    exact congrArg some hz

theorem Stalls.succ (hpos : 1 ≤ (nextCpuStep c.idle c.steps).1.cycles)
    (h : Stalls budget (acc + (nextCpuStep c.idle c.steps).1.cycles) n
      { c with steps := (nextCpuStep c.idle c.steps).2 }) :
    Stalls budget acc (n + 1) c where
  below := by
    rw [cpuStepsTaken_succ, cyclesOf_cons, ← Nat.add_assoc]
    exact h.below
  allRun := by
    rw [cpuStepsTaken_succ, List.forall_mem_cons]
    exact ⟨hpos, h.allRun⟩
  nextZero := by
    rw [cpuStepsTaken_succ, cpuStepsTaken_succ, List.getLast?_cons_cons, ← cpuStepsTaken_succ]
    exact h.nextZero

/-- A step of no cycles, taken, is none that ran. -/
theorem Stalls.exists_zero (h : Stalls budget acc n c) : ∃ x ∈ cpuStepsTaken (n + 1) c, x.cycles = 0 := by
  obtain ⟨x, hx, hz⟩ := Option.map_eq_some_iff.mp h.nextZero
  exact ⟨x, List.mem_of_getLast? hx, hz⟩

/-- The two ends exclude each other. -/
theorem MeetsBudget.not_stalls {m : Nat} (h : MeetsBudget budget acc m c) : ¬Stalls budget acc n c := by
  intro hs
  rcases Nat.lt_or_ge n m with hnm | hmn
  · obtain ⟨x, hx, hz⟩ := hs.exists_zero
    have hpos := h.allRun x ((cpuStepsTaken_isPrefix hnm c).subset hx)
    omega
  · have hmono := cyclesOf_taken_mono hmn c
    have hmet := h.met
    have hbelow := hs.below
    omega

/-- R251: no script that keeps the contract stalls. -/
theorem Stalls.not_cpuContract (h : Stalls budget acc n c) : ¬cpuContract c := by
  rintro ⟨hidle, hsteps⟩
  obtain ⟨x, hx, hz⟩ := h.exists_zero
  rcases mem_cpuStepsTaken hx with hm | rfl
  · have hpos := hsteps x hm
    omega
  · omega

end Turn

/-- The script that is left after a turn and `n` more steps. -/
theorem nextCpuStep_drop (n : Nat) (c : Cpu) :
    (nextCpuStep c.idle c.steps).2.drop n = c.steps.drop (n + 1) := by
  cases c.steps <;> simp

/-- The frame loop ends in one of two ways: it has run the fewest steps that meet the budget, or it has met a step of
no cycles (R250, R251). The bound is enough because every step that runs takes a cycle (log 20). -/
theorem frameLoop_cases {budget fuel acc : Nat} (hfuel : budget ≤ acc + fuel) (c : Cpu) (s : State) :
    (∃ n, MeetsBudget budget acc n c ∧
      frameLoop budget c.idle fuel acc c.steps s =
        some (acc + cyclesOf (cpuStepsTaken n c), c.steps.drop n,
          (cpuStepsTaken n c).foldl (fun t x => runCpuStep x t) s)) ∨
    (∃ n, Stalls budget acc n c ∧ frameLoop budget c.idle fuel acc c.steps s = none) := by
  induction fuel generalizing acc c s with
  | zero => exact .inl ⟨0, .zero hfuel, rfl⟩
  | succ fuel ih =>
    rw [frameLoop_succ]
    by_cases hb : acc < budget
    · rw [if_pos hb]
      by_cases hz : (nextCpuStep c.idle c.steps).1.cycles = 0
      · rw [if_pos hz]
        exact .inr ⟨0, .zero hb hz, rfl⟩
      · rw [if_neg hz]
        have hpos := Nat.one_le_iff_ne_zero.mpr hz
        rcases ih (acc := acc + (nextCpuStep c.idle c.steps).1.cycles) (by omega)
          { c with steps := (nextCpuStep c.idle c.steps).2 } (runCpuStep (nextCpuStep c.idle c.steps).1 s) with
          ⟨n, hn, he⟩ | ⟨n, hn, he⟩
        · refine .inl ⟨n + 1, .succ hb hpos hn, he.trans ?_⟩
          rw [cpuStepsTaken_succ, cyclesOf_cons, ← nextCpuStep_drop, Nat.add_assoc]
          rfl
        · exact .inr ⟨n + 1, .succ hpos hn, he⟩
    · rw [if_neg hb]
      exact .inl ⟨0, .zero (Nat.not_lt.mp hb), rfl⟩

/-! ### RunFrame -/

/-- The block after the first `n` CPU steps of a frame, with the rest of the script and the new carry (R250, R256). -/
def frameEnd (n : Nat) (s : State) : State :=
  let s1 := (cpuStepsTaken n s.cpu).foldl (fun t x => runCpuStep x t) s
  { s1 with
    cpu := { s1.cpu with steps := s.cpu.steps.drop n }
    fcarry := s.fcarry + cyclesOf (cpuStepsTaken n s.cpu) - s.params.frameBudget }

/-- RunFrame ends as its loop does. -/
theorem runFrame_cases (s : State) :
    (∃ n, MeetsBudget s.params.frameBudget s.fcarry n s.cpu ∧
      runFrame s =
        some { serviceInjection (frameEnd n s) with
          result := .cycles (s.fcarry + cyclesOf (cpuStepsTaken n s.cpu)) }) ∨
    (∃ n, Stalls s.params.frameBudget s.fcarry n s.cpu ∧ runFrame s = none) := by
  have hfuel : s.params.frameBudget ≤ s.fcarry + (s.params.frameBudget - s.fcarry) := by omega
  rcases frameLoop_cases hfuel s.cpu s with ⟨n, hn, he⟩ | ⟨n, hn, he⟩
  · exact .inl ⟨n, hn, by rw [runFrame, he]; rfl⟩
  · exact .inr ⟨n, hn, by rw [runFrame, he]⟩

theorem execFrame_of_some {s t : State} (h : runFrame s = some t) : exec .frame s = .next t := by
  change execFrame s = _
  rw [execFrame, h]

theorem execFrame_of_none {s : State} (h : runFrame s = none) : exec .frame s = .refused .cpuStepZero := by
  change execFrame s = _
  rw [execFrame, h]

/-- Settles O43: the contract leaves only the end at the budget. -/
theorem frameRunsToItsBudget : Obligations.FrameRunsToItsBudget := by
  intro s hc
  rcases runFrame_cases s with ⟨n, hn, hrun⟩ | ⟨n, hn, -⟩
  · exact ⟨n, hn.met, hn.fewest, execFrame_of_some hrun⟩
  · exact absurd hc hn.not_cpuContract

/-- Settles O44: of the two ends of a frame, which exclude each other, only the one at a step of no cycles refuses. -/
theorem frameRefusesAZeroCycleStep : Obligations.FrameRefusesAZeroCycleStep := by
  intro s
  rcases runFrame_cases s with ⟨m, hm, hrun⟩ | ⟨m, hm, hrun⟩
  · rw [execFrame_of_some hrun]
    constructor
    · intro h
      cases h
    · rintro ⟨n, hbelow, hall, hzero⟩
      exact absurd ⟨hbelow, hall, hzero⟩ hm.not_stalls
  · rw [execFrame_of_none hrun]
    exact ⟨fun _ => ⟨m, hm.below, hm.allRun, hm.nextZero⟩, fun _ => rfl⟩

/-! ### The carry -/

/-- A bus access and a CPU step leave the CPU's standing answer as it is. -/
theorem cpuAccess_cpuIdle (s : State) (x : BusAccess) : (cpuAccess s x).cpu.idle = s.cpu.idle := by
  cases x with
  | read a => simp only [cpuAccess, busRead_cpu]
  | write a v => simp only [cpuAccess, busWrite_cpu]

theorem cpuAccesses_cpuIdle (xs : List BusAccess) (s : State) : (cpuAccesses xs s).cpu.idle = s.cpu.idle := by
  induction xs generalizing s with
  | nil => rfl
  | cons x xs ih => exact (ih _).trans (cpuAccess_cpuIdle s x)

theorem ticks_cpuIdle (n : Nat) (s : State) : (ticks n s).cpu.idle = s.cpu.idle := by
  induction n generalizing s with
  | zero => rfl
  | succ n ih => exact (ih _).trans (tick_cpuIdle s)

theorem runCpuSteps_cpuIdle (cs : List CpuStep) (s : State) :
    (cs.foldl (fun t x => runCpuStep x t) s).cpu.idle = s.cpu.idle := by
  induction cs generalizing s with
  | nil => rfl
  | cons x cs ih => exact (ih _).trans ((ticks_cpuIdle _ _).trans (cpuAccesses_cpuIdle _ _))

/-- The injection service does not reach the CPU (R257). -/
theorem injectLoop_cpu (m : Byte) (text : List Byte) (n : Byte) (i : Nat) (s : State) :
    (injectLoop m text n i s).2.cpu = s.cpu := by
  induction text generalizing n i s with
  | nil => rfl
  | cons ch rest ih =>
    simp only [injectLoop]
    split
    · rw [ih, busWrite_cpu, busWrite_cpu]
    · rfl

theorem serviceInjection_cpu (s : State) : (serviceInjection s).cpu = s.cpu := by
  unfold serviceInjection
  split
  · rfl
  · dsimp only
    rw [injectLoop_cpu, busRead_cpu, busRead_cpu]

/-- Only FRAME and RESET move the carry: a bus access does not. -/
theorem fcarry_busStable : BusStable fun s t => t.fcarry = s.fcarry where
  refl _ := rfl
  trans h1 h2 := h2.trans h1
  read := busRead_fcarry
  write := busWrite_fcarry
  cpu _ _ := rfl

/-- What FRAME leaves for the next: the count as result, the overrun as carry, the rest of the script (R250, R256). -/
theorem runFrame_carry {s t : State} (h : runFrame s = some t) :
    ∃ n, MeetsBudget s.params.frameBudget s.fcarry n s.cpu ∧
      t.result = .cycles (s.fcarry + cyclesOf (cpuStepsTaken n s.cpu)) ∧
      t.fcarry = s.fcarry + cyclesOf (cpuStepsTaken n s.cpu) - s.params.frameBudget ∧
      t.cpu.idle = s.cpu.idle ∧ t.cpu.steps = s.cpu.steps.drop n := by
  rcases runFrame_cases s with ⟨n, hn, he⟩ | ⟨n, -, he⟩
  · cases h.symm.trans he
    refine ⟨n, hn, rfl, fcarry_busStable.serviceInjection (fun _ _ => rfl) (frameEnd n s), ?_, ?_⟩
    · exact (congrArg Cpu.idle (serviceInjection_cpu _)).trans (runCpuSteps_cpuIdle _ s)
    · exact congrArg Cpu.steps (serviceInjection_cpu (frameEnd n s))
  · cases h.symm.trans he

/-- The overrun of a frame is less than the longest CPU step: the step that met the budget began below it. -/
theorem MeetsBudget.overrun_lt {budget acc n cmax : Nat} {c : Cpu} (h : MeetsBudget budget acc n c)
    (hacc : acc < cmax) (hmax : ∀ x ∈ cpuStepsTaken n c, x.cycles ≤ cmax) :
    acc + cyclesOf (cpuStepsTaken n c) - budget < cmax := by
  cases n with
  | zero =>
    rw [cpuStepsTaken_zero, cyclesOf_nil]
    omega
  | succ n =>
    have hbelow := h.fewest n (Nat.lt_succ_self n)
    obtain ⟨x, hx⟩ := cpuStepsTaken_succ_last n c
    have hlast : x.cycles ≤ cmax := hmax x (by simp [hx])
    rw [hx, cyclesOf_append, cyclesOf_cons, cyclesOf_nil]
    omega

/-- The frames of a run, one at a time. -/
theorem framesRun_succ {n total : Nat} {s t : State} (h : framesRun (n + 1) s = some (total, t)) :
    ∃ s1 acc rest, runFrame s = some s1 ∧ s1.result = .cycles acc ∧ framesRun n s1 = some (rest, t) ∧
      total = acc - s.fcarry + rest := by
  rw [framesRun] at h
  split at h
  · cases h
  · rename_i s1 hrun
    split at h
    · rename_i acc rest t' hacc hrest
      cases h
      exact ⟨s1, acc, rest, hrun, hacc, hrest, rfl⟩
    · cases h

/-- R256: what was run and the carry in are the budgets and the carry out. -/
theorem framesRun_total {n total : Nat} {s t : State} (h : framesRun n s = some (total, t)) :
    total + s.fcarry = n * s.params.frameBudget + t.fcarry := by
  induction n generalizing s total with
  | zero =>
    cases h
    rw [Nat.zero_mul]
  | succ n ih =>
    obtain ⟨s1, acc, rest, hrun, hacc, hrest, rfl⟩ := framesRun_succ h
    obtain ⟨k, hk, hresult, hcarry, -, -⟩ := runFrame_carry hrun
    have hih := ih hrest
    cases hacc.symm.trans hresult
    rw [(runFrame_sameConfig hrun).1, hcarry] at hih
    have hmet := hk.met
    rw [Nat.succ_mul]
    omega

/-- R256: the carry stays below the longest CPU step. -/
theorem framesRun_carry_lt {n total cmax : Nat} {s t : State} (h : framesRun n s = some (total, t))
    (hcarry : s.fcarry < cmax) (hidle : s.cpu.idle.cycles ≤ cmax) (hsteps : ∀ x ∈ s.cpu.steps, x.cycles ≤ cmax) :
    t.fcarry < cmax := by
  induction n generalizing s total with
  | zero =>
    cases h
    exact hcarry
  | succ n ih =>
    obtain ⟨s1, acc, rest, hrun, -, hrest, -⟩ := framesRun_succ h
    obtain ⟨k, hk, -, hcarry1, hidle1, hsteps1⟩ := runFrame_carry hrun
    refine ih hrest ?_ (hidle1 ▸ hidle) fun x hx => hsteps x (List.mem_of_mem_drop (hsteps1 ▸ hx))
    rw [hcarry1]
    refine hk.overrun_lt hcarry fun x hx => ?_
    rcases mem_cpuStepsTaken hx with hm | rfl
    · exact hsteps x hm
    · exact hidle

/-- Settles O45, each law by induction on the frames. -/
theorem frameCarryDoesNotDrift : Obligations.FrameCarryDoesNotDrift := by
  intro n total cmax s t h
  refine ⟨fun hzero => ?_, framesRun_carry_lt h⟩
  have htotal := framesRun_total h
  rwa [hzero, Nat.add_zero] at htotal

end Sys2Proof.Machine
end

section
/-! Character injection (R257, R258): the text INJECT takes, and what the service writes to the guest's buffer. -/

namespace Sys2Proof.Machine

/-! ### INJECT -/

/-- Settles O46: the text is what precedes the first zero byte, the rest what is left. -/
theorem injectTakesTheTextBeforeTheFirstZero : Obligations.InjectTakesTheTextBeforeTheFirstZero := by
  intro buf s
  refine ⟨buf.takeWhile (· != 0), buf.dropWhile (· != 0), rfl, List.takeWhile_append_dropWhile.symm, ?_, ?_⟩
  · intro hmem
    simpa using List.mem_takeWhile_imp hmem
  · have hhead := List.head?_dropWhile_not (· != (0 : Byte)) buf
    cases hrest : buf.dropWhile (· != 0) with
    | nil => exact .inl rfl
    | cons b rest =>
      rw [hrest] at hhead
      exact .inr (by simpa using hhead)

/-! ### The guest's buffer at its default address -/

/-- RAM_LO is fixed RAM, whatever is installed (R61, R123). -/
theorem busAccess_ramLo {a : Addr} (ha : a.toNat ≤ 0x03FF) (v : Byte) (s : State) :
    busRead a s = (s.ramByte a, s) ∧ videoRead a s = s.ramByte a ∧ busWrite a v s = s.setRamByte a v :=
  busAccess_ofRam a v s (.inl (State.target_eq (.ramLo ha)))

/-- One turn of the writing loop: the character, then the counter (R257). -/
def injectChar (n ch : Byte) (s : State) : State :=
  busWrite s.params.ndxAddr (n + 1) (busWrite (s.params.kbufAddr + n.setWidth 16) ch s)

theorem injectLoop_cons (m ch : Byte) (rest : List Byte) (n : Byte) (i : Nat) (s : State) :
    injectLoop m (ch :: rest) n i s =
      if n < m then injectLoop m rest (n + 1) (i + 1) (injectChar n ch s) else (i, s) := rfl

/-- The default buffer's cell of character `n`. -/
theorem kbuf_toNat (n : Byte) : ((0x0277 : Addr) + n.setWidth 16).toNat = 0x0277 + n.toNat := by
  bv_omega

/-- A count below a limit of a byte steps without wrapping. -/
theorem toNat_succ_of_lt {n m : Byte} (h : n < m) : (n + 1).toNat = n.toNat + 1 := by
  bv_omega

section Default

variable {s : State} (hp : s.params = Config.defaults)
include hp

theorem injectChar_eq (n ch : Byte) :
    injectChar n ch s = (s.setRamByte (0x0277 + n.setWidth 16) ch).setRamByte 0x00C6 (n + 1) := by
  have hn := n.isLt
  have hcell : ((0x0277 : Addr) + n.setWidth 16).toNat ≤ 0x03FF := by
    rw [kbuf_toNat]
    omega
  obtain ⟨-, -, hchar⟩ := busAccess_ramLo hcell ch s
  obtain ⟨-, -, hcounter⟩ :=
    busAccess_ramLo (show (0x00C6 : Addr).toNat ≤ 0x03FF by decide) (n + 1) (s.setRamByte (0x0277 + n.setWidth 16) ch)
  rw [injectChar, hp]
  exact (congrArg _ hchar).trans hcounter

/-- A turn writes the counter and the character's cell, nothing else. -/
theorem ramByte_injectChar (hwf : Memory.wf s.params.ramInit s.ram = true) (n ch : Byte) (b : Addr) :
    (injectChar n ch s).ramByte b =
      if b = 0x00C6 then n + 1 else if b.toNat = 0x0277 + n.toNat then ch else s.ramByte b := by
  have hmid := State.ramByte_setRamByte s (0x0277 + n.setWidth 16) b ch hwf
  rw [injectChar_eq hp, State.ramByte_setRamByte _ _ _ _ (memWrite_wf hwf), hmid, ← kbuf_toNat]
  simp only [BitVec.toNat_inj]

theorem injectChar_params (n ch : Byte) : (injectChar n ch s).params = s.params := by
  rw [injectChar_eq hp]
  rfl

theorem injectChar_wf (hwf : Memory.wf s.params.ramInit s.ram = true) (n ch : Byte) :
    Memory.wf (injectChar n ch s).params.ramInit (injectChar n ch s).ram = true := by
  rw [injectChar_eq hp]
  exact memWrite_wf (memWrite_wf hwf)

end Default

/-- `t` is `s` with `text` written to the guest's buffer from position `n` on, and counted (R257). -/
structure Appended (n : Nat) (text : List Byte) (s t : State) : Prop where
  frame : t = { s with ram := t.ram }
  counter : (t.ramByte 0x00C6).toNat = n + text.length
  chars : ∀ i, i < text.length → some (t.ramByte (BitVec.ofNat 16 (0x0277 + n + i))) = text[i]?
  others : ∀ a : Addr, a ≠ 0x00C6 → (a.toNat < 0x0277 + n ∨ 0x0277 + n + text.length ≤ a.toNat) →
    t.ramByte a = s.ramByte a

theorem Appended.nil {n : Byte} {s : State} (hn : s.ramByte 0x00C6 = n) : Appended n.toNat [] s s where
  frame := rfl
  counter := by rw [hn]; rfl
  chars _ hi := absurd hi (Nat.not_lt_zero _)
  others _ _ _ := rfl

/-- A character written, and then the rest after it. -/
theorem Appended.cons {n ch : Byte} {rest : List Byte} {s t : State} (hp : s.params = Config.defaults)
    (hwf : Memory.wf s.params.ramInit s.ram = true) (h : Appended (n.toNat + 1) rest (injectChar n ch s) t) :
    Appended n.toNat (ch :: rest) s t where
  frame := by
    rw [h.frame, injectChar_eq hp]
    rfl
  counter := by
    rw [h.counter, List.length_cons]
    omega
  chars i hi := by
    have hn := n.isLt
    cases i with
    | zero =>
      have hcell : (BitVec.ofNat 16 (0x0277 + n.toNat)).toNat = 0x0277 + n.toNat := by
        rw [BitVec.toNat_ofNat]
        omega
      have hne : BitVec.ofNat 16 (0x0277 + n.toNat) ≠ 0x00C6 := by bv_omega
      rw [Nat.add_zero, h.others _ hne (.inl (by omega)), ramByte_injectChar hp hwf, if_neg hne, if_pos hcell]
      rfl
    | succ i =>
      rw [show 0x0277 + n.toNat + (i + 1) = 0x0277 + (n.toNat + 1) + i by omega,
        h.chars i (Nat.lt_of_succ_lt_succ hi), List.getElem?_cons_succ]
  others a ha hout := by
    rw [List.length_cons] at hout
    rw [h.others a ha (by omega), ramByte_injectChar hp hwf, if_neg ha, if_neg (by omega)]

/-- The writing loop appends the characters that fit below `m` (R257). -/
theorem injectLoop_appended {m n : Byte} {text : List Byte} {i : Nat} {s : State} (hp : s.params = Config.defaults)
    (hwf : Memory.wf s.params.ramInit s.ram = true) (hn : s.ramByte 0x00C6 = n) :
    (injectLoop m text n i s).1 = i + min text.length (m.toNat - n.toNat) ∧
      Appended n.toNat (text.take (m.toNat - n.toNat)) s (injectLoop m text n i s).2 := by
  induction text generalizing n i s with
  | nil =>
    rw [List.take_nil, List.length_nil, Nat.zero_min]
    exact ⟨rfl, .nil hn⟩
  | cons ch rest ih =>
    rw [injectLoop_cons]
    by_cases hlt : n < m
    · have hlt' : n.toNat < m.toNat := hlt
      have hnext := toNat_succ_of_lt hlt
      obtain ⟨hcount, happ⟩ := ih (n := n + 1) (i := i + 1) (s := injectChar n ch s)
        ((injectChar_params hp n ch).trans hp) (injectChar_wf hp hwf n ch)
        (by rw [ramByte_injectChar hp hwf, if_pos rfl])
      rw [hnext] at hcount happ
      rw [if_pos hlt, hcount]
      refine ⟨by rw [List.length_cons]; omega, ?_⟩
      rw [show m.toNat - n.toNat = (m.toNat - (n.toNat + 1)) + 1 by omega, List.take_succ_cons]
      exact happ.cons hp hwf
    · have hge : m.toNat - n.toNat = 0 := Nat.sub_eq_zero_of_le (Nat.not_lt.mp hlt)
      rw [if_neg hlt, hge]
      exact ⟨by simp, by simpa using Appended.nil hn⟩

/-- The service with the default guest addresses: two reads of fixed RAM, then the loop (R257). -/
theorem serviceInjection_eq {s : State} {j : Injection} (hp : s.params = Config.defaults) (hj : s.inj = some j) :
    serviceInjection s =
      let out := injectLoop (s.ramByte 0x0289) (j.text.drop j.idx) (s.ramByte 0x00C6) j.idx s
      { out.2 with inj := injectionLeft j.text out.1 } := by
  obtain ⟨hndx, -⟩ := busAccess_ramLo (show (0x00C6 : Addr).toNat ≤ 0x03FF by decide) 0 s
  obtain ⟨hxmax, -⟩ := busAccess_ramLo (show (0x0289 : Addr).toNat ≤ 0x03FF by decide) 0 s
  have haddr : s.params.ndxAddr = 0x00C6 ∧ s.params.xmaxAddr = 0x0289 := by
    rw [hp]
    exact ⟨rfl, rfl⟩
  obtain ⟨ha, hb⟩ := haddr
  simp only [serviceInjection, hj, ha, hb, hndx, hxmax]

/-- Settles O47: the service is the writing loop, and the cursor follows its count. -/
theorem injectionFillsTheGuestBuffer : Obligations.InjectionFillsTheGuestBuffer := by
  intro s j hp hwf hj hidx n m k t
  have hloop := injectLoop_appended (m := s.ramByte 0x0289) (text := j.text.drop j.idx) (i := j.idx) hp hwf rfl
  have ht : t = _ := serviceInjection_eq hp hj
  generalize injectLoop (s.ramByte 0x0289) (j.text.drop j.idx) (s.ramByte 0x00C6) j.idx s = out at hloop ht
  obtain ⟨hcount, happ⟩ := hloop
  have hk : ((j.text.drop j.idx).take (m - n)).length = k := by
    rw [List.length_take, List.length_drop, Nat.min_comm]
  rw [List.length_drop] at hcount
  have hbyte : ∀ a, t.ramByte a = out.2.ramByte a := fun a => by rw [ht]; rfl
  refine ⟨?_, ?_, ?_, fun i hi => ?_, fun a ha hout => ?_⟩
  · rw [ht]
    exact congrArg (fun u : State => { u with inj := injectionLeft j.text out.1 }) happ.frame
  · rw [ht]
    exact congrArg (injectionLeft j.text) hcount
  · rw [hbyte, happ.counter, hk]
  · rw [hbyte, happ.chars i (hk ▸ hi), List.getElem?_take_of_lt (by omega), List.getElem?_drop]
  · rw [hbyte, happ.others a ha (hk ▸ hout)]

end Sys2Proof.Machine
end

section
/-! The host operations (R264 to R274): KEY, JOY and LINE, the RAM ladder, the cartridges and the program loader. -/

namespace Sys2Proof.Machine

/-! ### KEY, JOY and LINE -/

/-- R264: the matrix with one cell set. -/
theorem setKey_kbd (pressed : Bool) (r c r' c' : Fin 8) (s : State) :
    ((setKey pressed r c s).kbd[r'])[c'] = if r' = r ∧ c' = c then pressed else (s.kbd[r'])[c'] := by
  simp only [setKey, Fin.getElem_fin, Vector.getElem_set, Fin.ext_iff, eq_comm (a := r'.val), eq_comm (a := c'.val)]
  by_cases hr : r.val = r'.val
  · by_cases hc : c.val = c'.val <;> simp [hr, hc]
  · simp [hr]

/-- Settles O48. -/
theorem keySetsOneMatrixCell : Obligations.KeySetsOneMatrixCell :=
  fun pressed r c s => ⟨setKey pressed r c s, rfl, rfl, fun r' c' => setKey_kbd pressed r c r' c' s⟩

/-- Settles O49: each button and each line is an arm of its own. -/
theorem joyAndLineSetOneLevel : Obligations.JoyAndLineSetOneLevel :=
  fun _ _ _ => ⟨rfl, rfl, rfl, rfl, rfl, rfl, rfl, rfl, rfl⟩

/-! ### RAMCFG -/

/-- A cell is kept or not by its address alone. -/
theorem cellKept_congr (old new : Vector Bool 5) (k : Nat) (x y : Byte) :
    cellKept old new (k, x) = cellKept old new (k, y) := rfl

/-- R268: a byte that is kept reads as before, every other as RAM_INIT. -/
theorem configureRam_ramByte (r : RamPreset) (s : State) (a : Addr) :
    (configureRam r s).ramByte a =
      if cellKept s.expram (ladder r) (a.toNat, 0) = true then s.ramByte a else s.params.ramInit :=
  memRead_filter _ (cellKept_congr s.expram (ladder r))

/-- Settles O50: the presence is the ladder's, and an address is kept by the block it belongs to. -/
theorem ramConfigurationFollowsTheLadder : Obligations.RamConfigurationFollowsTheLadder := by
  intro r s
  refine ⟨configureRam r s, rfl, rfl, ?_, fun a => ⟨fun hfixed => ?_, fun b hb => ?_⟩⟩
  · exact (ladder_toList r).trans (by cases r <;> rfl)
  · rw [configureRam_ramByte, cellKept, hfixed, if_pos rfl]
  · rw [configureRam_ramByte, cellKept, hb]
    simp only [Bool.and_eq_true]
    rfl

/-! ### CART -/

/-- The length the trim leaves of `n` bytes (R271). -/
def trimmedLength (n : Nat) : Nat := if 8192 ≤ n then 8192 else if 4096 ≤ n then 4096 else 0

theorem trimmedLength_le (n : Nat) : trimmedLength n ≤ n := by
  unfold trimmedLength
  split_ifs <;> omega

/-- A recognised length is kept whole. -/
theorem trimmedLength_of_sized {n : Nat} (h : cartSized n = true) : trimmedLength n = n := by
  simp only [cartSized, Bool.or_eq_true, beq_iff_eq] at h
  rcases h with rfl | rfl <;> rfl

/-- A byte that does not make a recognised length adds nothing to what is left. -/
theorem trimmedLength_succ_of_not_sized {n : Nat} (h : ¬cartSized (n + 1) = true) :
    trimmedLength (n + 1) = trimmedLength n := by
  simp only [cartSized, Bool.or_eq_true, beq_iff_eq] at h
  unfold trimmedLength
  split_ifs <;> omega

theorem trimCart_eq_drop (buf : List Byte) : trimCart buf = buf.drop (buf.length - trimmedLength buf.length) := by
  induction buf with
  | nil => rfl
  | cons b rest ih =>
    rw [trimCart, List.length_cons]
    split
    · rename_i hsized
      rw [trimmedLength_of_sized hsized, Nat.sub_self, List.drop_zero]
    · rename_i hsized
      rw [trimmedLength_succ_of_not_sized hsized, Nat.succ_sub (trimmedLength_le _), List.drop_succ_cons, ih]

/-- Settles O51, by induction on the buffer. -/
theorem cartridgeTrimKeepsTheTail : Obligations.CartridgeTrimKeepsTheTail := trimCart_eq_drop

theorem cartSlot_cartBase (c : Fin 4) : cartSlot (BitVec.ofNat 16 (cartBase c)) = some c := by
  revert c
  decide

/-- R272: the slot of a load address is the one with that base. -/
theorem cartSlot_eq_some_iff (l : Addr) (c : Fin 4) : cartSlot l = some c ↔ l.toNat = cartBase c := by
  constructor
  · unfold cartSlot
    split_ifs with h0 h1 h2 h3 <;> intro h <;> cases h
    · rw [h0]; rfl
    · rw [h1]; rfl
    · rw [h2]; rfl
    · rw [h3]; rfl
  · intro h
    have hl : l = BitVec.ofNat 16 (cartBase c) := by rw [← h, BitVec.ofNat_toNat, BitVec.setWidth_eq]
    rw [hl]
    exact cartSlot_cartBase c

/-- Two bytes, low one first, as an address (R8, R269). -/
theorem word16_eq_ofNat (hi lo : Byte) : word16 hi lo = BitVec.ofNat 16 (hi.toNat * 256 + lo.toNat) := by
  apply BitVec.eq_of_toNat_eq
  have hhi := hi.isLt
  have hlo := lo.isLt
  rw [word16, append_toNat_eq_add, BitVec.toNat_ofNat]
  omega

theorem loadCart_explicit {a : Addr} (ha : a ≠ 0) (rst : Bool) (buf : List Byte) (s : State) :
    loadCart a rst buf s = installCart a (trimCart buf) rst s := if_neg ha

/-- R269: a buffer of header and image is installed where its header says. -/
theorem loadCart_auto_of_sized {lo hi : Byte} {data : List Byte} (h : cartSized data.length = true) (rst : Bool)
    (s : State) : loadCart 0 rst (lo :: hi :: data) s = installCart (word16 hi lo) data rst s := by
  rw [loadCart, if_pos rfl, autoCart, if_pos h]

/-- R269: auto-detect ignores a buffer of any other length. -/
theorem loadCart_auto_of_not_sized {buf : List Byte} (h1 : buf.length ≠ 4098) (h2 : buf.length ≠ 8194) (rst : Bool)
    (s : State) : loadCart 0 rst buf s = s := by
  rw [loadCart, if_pos rfl]
  unfold autoCart
  split
  · rename_i lo hi data
    refine if_neg fun h => ?_
    simp only [cartSized, Bool.or_eq_true, beq_iff_eq] at h
    simp only [List.length_cons] at h1 h2
    omega
  · rfl

/-- Settles O52, case by case of the load address and the length. -/
theorem cartInstallsInTheAddressedSlot : Obligations.CartInstallsInTheAddressedSlot := by
  intro a rst buf s install
  have hinstall : ∀ l data, installCart l data rst s = install l data := by
    intro l data
    simp only [install, installCart]
    cases cartSlot l <;> rfl
  refine ⟨fun ha => ?_, fun ha hlen lo hi hlo hhi => ?_, fun ha h1 h2 => ?_, cartSlot_eq_some_iff⟩
  · rw [← hinstall, ← loadCart_explicit ha]
    rfl
  · subst ha
    match buf, hlen, hlo, hhi with
    | _ :: _ :: data, hlen, rfl, rfl =>
      have hsized : cartSized data.length = true := by
        simp only [cartSized, Bool.or_eq_true, beq_iff_eq]
        simp only [List.length_cons] at hlen
        omega
      rw [← word16_eq_ofNat, ← hinstall]
      exact congrArg Host.Outcome.next (loadCart_auto_of_sized hsized rst s)
  · subst ha
    exact congrArg Host.Outcome.next (loadCart_auto_of_not_sized h1 h2 rst s)

/-! ### PRG -/

/-- R273: byte `i` of the data goes to the load address plus `i`, modulo 2^16. -/
theorem writeBytes_eq_foldl (l i : Nat) (data : List Byte) (s : State) :
    writeBytes (BitVec.ofNat 16 (l + i)) data s =
      (data.zipIdx i).foldl (fun t x => busWrite (BitVec.ofNat 16 (l + x.2)) x.1 t) s := by
  induction data generalizing i s with
  | nil => rfl
  | cons b rest ih =>
    have hnext : BitVec.ofNat 16 (l + i) + 1 = BitVec.ofNat 16 (l + (i + 1)) := (BitVec.ofNat_add (l + i) 1).symm
    rw [writeBytes, hnext, ih, List.zipIdx_cons, List.foldl_cons]

/-- R273: the pointers in their order, each low byte first. -/
theorem patchPtrs_eq_foldl (ps : List Addr) (e : BitVec 16) (s : State) :
    patchPtrs ps e s = ps.foldl (fun t p => busWrite (p + 1) (hiByte e) (busWrite p (loByte e) t)) s := by
  induction ps generalizing s with
  | nil => rfl
  | cons p ps ih => rw [patchPtrs, ih, List.foldl_cons]

theorem loadPrg_of_short {buf : List Byte} (h : buf.length < 2) (run : Bool) (s : State) : loadPrg buf run s = s := by
  match buf, h with
  | [], _ => rfl
  | [_], _ => rfl

/-- Settles O53: the two loops of the loader as folds, over the load and the end address as numbers. -/
theorem programLoaderWritesDataAndPointers : Obligations.ProgramLoaderWritesDataAndPointers := by
  intro run buf s
  refine ⟨fun h => congrArg Host.Outcome.next (loadPrg_of_short h run s), ?_⟩
  rintro lo hi data rfl l e loaded patched
  have hload : word16 hi lo = BitVec.ofNat 16 l := word16_eq_ofNat hi lo
  clear_value l
  have hend : word16 hi lo + BitVec.ofNat 16 data.length = e := by
    rw [hload]
    exact (BitVec.ofNat_add l data.length).symm
  have hdata : writeBytes (word16 hi lo) data s = loaded := by
    rw [hload]
    exact writeBytes_eq_foldl l 0 data s
  have hptrs : patchPtrs s.params.prgPtrs e loaded = patched := by
    rw [patchPtrs_eq_foldl]
    rfl
  refine congrArg Host.Outcome.next ?_
  rw [loadPrg, hend, hdata, hptrs]
  rfl

end Sys2Proof.Machine
end

section
/-! The flags that no modelled part of a core raises: CB1, CB2, SR and CA2 (R292). Bus accesses and RESET only clear
flags and a tick raises only those of timer 1, timer 2 and CA1, so one `BusStable` relation carries the fact through
the operations made of them. -/

namespace Sys2Proof.Machine

/-! ### Two flag words -/

/-- From the flags `f` to the flags `g` none of CB1, CB2, SR and CA2 is raised. -/
def RaisesNoUnmodelled (f g : BitVec 7) : Prop := g &&& 0x1D &&& ~~~f = 0

/-- Bit by bit: each of the four that is set after was set before. -/
theorem raisesNoUnmodelled_iff {f g : BitVec 7} :
    RaisesNoUnmodelled f g ↔
      ∀ i < 7, (0x1D#7).getLsbD i = true → g.getLsbD i = true → f.getLsbD i = true := by
  have hbit (i : Nat) (hi : i < 7) : (g &&& 0x1D &&& ~~~f).getLsbD i = false ↔
      ((0x1D#7).getLsbD i = true → g.getLsbD i = true → f.getLsbD i = true) := by
    rw [BitVec.getLsbD_and, BitVec.getLsbD_and, BitVec.getLsbD_not, decide_eq_true hi, Bool.true_and]
    cases g.getLsbD i <;> cases f.getLsbD i <;> simp
  constructor
  · intro h i hi
    rw [← hbit i hi, show g &&& 0x1D &&& ~~~f = 0 from h]
    exact BitVec.getLsbD_zero
  · intro h
    refine BitVec.eq_of_getLsbD_eq fun i hi => ?_
    exact ((hbit i hi).mpr (h i hi)).trans BitVec.getLsbD_zero.symm

theorem RaisesNoUnmodelled.refl (f : BitVec 7) : RaisesNoUnmodelled f f :=
  raisesNoUnmodelled_iff.mpr fun _ _ _ h => h

theorem RaisesNoUnmodelled.trans {f g e : BitVec 7} (hfg : RaisesNoUnmodelled f g) (hge : RaisesNoUnmodelled g e) :
    RaisesNoUnmodelled f e := by
  rw [raisesNoUnmodelled_iff] at *
  exact fun i hi hm h => hfg i hi hm (hge i hi hm h)

theorem RaisesNoUnmodelled.zero (f : BitVec 7) : RaisesNoUnmodelled f 0 := by
  simp [RaisesNoUnmodelled]

theorem RaisesNoUnmodelled.clearFlags (f mask : BitVec 7) : RaisesNoUnmodelled f (clearFlags f mask) := by
  rw [raisesNoUnmodelled_iff]
  intro i hi _ h
  rw [clearFlags_getLsbD f mask hi, Bool.and_eq_true] at h
  exact h.1

theorem RaisesNoUnmodelled.setFlags (f : BitVec 7) {mask : BitVec 7} (hmask : mask &&& 0x1D#7 = 0) :
    RaisesNoUnmodelled f (setFlags f mask) := by
  rw [raisesNoUnmodelled_iff]
  intro i _ hm h
  have hclear : mask.getLsbD i = false := by
    have hbit : (mask &&& 0x1D#7).getLsbD i = false := by rw [hmask]; exact BitVec.getLsbD_zero
    rwa [BitVec.getLsbD_and, hm, Bool.and_true] at hbit
  rwa [setFlags_getLsbD, hclear, Bool.or_false] at h

/-! ### Two states -/

/-- From the one state to the other neither core raises CB1, CB2, SR or CA2. -/
def NoUnmodelledRaised (s t : State) : Prop := ∀ k, RaisesNoUnmodelled (s.via k).ifr (t.via k).ifr

/-- An operation that leaves both cores' flags as they are raises none. -/
theorem NoUnmodelledRaised.of_ifr_eq {s t : State} (h : ∀ k, (t.via k).ifr = (s.via k).ifr) :
    NoUnmodelledRaised s t := by
  intro k
  rw [h k]
  exact .refl _

/-- A bus access only clears flags. -/
theorem noUnmodelledRaised_busStable : BusStable NoUnmodelledRaised where
  refl _ := .of_ifr_eq fun _ => rfl
  trans h1 h2 k := (h1 k).trans (h2 k)
  read a s k := by
    obtain ⟨mask, h⟩ := busRead_ifr a s k
    rw [h]
    exact .clearFlags _ mask
  write a v s k := by
    obtain ⟨mask, h⟩ := busWrite_ifr a v s k
    rw [h]
    exact .clearFlags _ mask
  cpu _ _ := .of_ifr_eq fun _ => rfl

/-- R292: a tick raises only the flags of the timers and of CA1. -/
theorem tick_noUnmodelledRaised (s : State) : NoUnmodelledRaised s (tick s) := by
  intro k
  obtain ⟨mask, hmask, h⟩ := viaTick_ifr (s.via k)
  rw [tick_via, h]
  exact .setFlags _ hmask

/-- R31: the reset components have no flag set, and the CPU's own reset is made of bus accesses. -/
theorem doReset_noUnmodelledRaised (s : State) : NoUnmodelledRaised s (doReset s) := by
  have hclear : NoUnmodelledRaised s (resetComponents s) := fun k => by
    rw [resetComponents_via]
    exact .zero _
  rw [doReset_eq]
  exact noUnmodelledRaised_busStable.trans hclear (noUnmodelledRaised_busStable.cpuReset _)

theorem runFrame_noUnmodelledRaised {s t : State} (h : runFrame s = some t) : NoUnmodelledRaised s t :=
  noUnmodelledRaised_busStable.runFrame tick_noUnmodelledRaised (fun _ _ => .of_ifr_eq fun _ => rfl)
    (fun _ _ => .of_ifr_eq fun _ => rfl) (fun _ _ => .of_ifr_eq fun _ => rfl) h

theorem setJoy_noUnmodelledRaised (pressed : Bool) (b : Button) (s : State) :
    NoUnmodelledRaised s (setJoy pressed b s) :=
  .of_ifr_eq fun _ => by cases b <;> rfl

/-- R266: a control line's level is taken at once; its edge is the next tick's. -/
theorem setLine_noUnmodelledRaised (k : ViaId) (level : Bool) (l : ControlLine) (s : State) :
    NoUnmodelledRaised s (setLine k level l s) :=
  .of_ifr_eq fun q => by
    rw [setLine, State.setVia_via]
    split
    · subst q
      cases l <;> rfl
    · rfl

theorem loadCart_noUnmodelledRaised (a : Addr) (rst : Bool) (buf : List Byte) (s : State) :
    NoUnmodelledRaised s (loadCart a rst buf s) := by
  rcases loadCart_cases a rst buf s with h | ⟨c, image, -, h⟩ <;> rw [h]
  · exact .of_ifr_eq fun _ => rfl
  · split
    · exact doReset_noUnmodelledRaised { s with cart := s.cart.set c (some image) }
    · exact .of_ifr_eq fun _ => rfl

/-- R292 for the effect of every operation. -/
theorem Effect.noUnmodelledRaised {s t : State} {i : Instr} (h : Effect s i t) : NoUnmodelledRaised s t := by
  cases h with
  | read a => exact noUnmodelledRaised_busStable.read a s
  | write a v => exact noUnmodelledRaised_busStable.write a v s
  | video a => exact .of_ifr_eq fun _ => rfl
  | tick => exact tick_noUnmodelledRaised s
  | frame h => exact runFrame_noUnmodelledRaised h
  | reset => exact doReset_noUnmodelledRaised s
  | key p r c => exact .of_ifr_eq fun _ => rfl
  | joy p b => exact setJoy_noUnmodelledRaised p b s
  | line k level l => exact setLine_noUnmodelledRaised k level l s
  | ramcfg r => exact .of_ifr_eq fun _ => rfl
  | cart a rst buf => exact loadCart_noUnmodelledRaised a rst buf s
  | prg run buf => exact noUnmodelledRaised_busStable.loadPrg (fun _ _ => .of_ifr_eq fun _ => rfl) buf run s
  | inject buf => exact .of_ifr_eq fun _ => rfl

/-- Settles O58: a step takes an operation off the queue and has its effect, and no effect raises an unmodelled flag. -/
theorem unmodelledFlagsAreNeverSet : Obligations.UnmodelledFlagsAreNeverSet := by
  intro s t k hstep
  rcases step_effect hstep with ⟨-, rfl⟩ | ⟨op, rest, i, -, -, he⟩
  · exact RaisesNoUnmodelled.refl _
  · exact he.noUnmodelledRaised k

end Sys2Proof.Machine
end

section
/-! The hazards of reset (R320, R322, R323): what the CPU's own reset accesses see, and the invariant at power-on. -/

namespace Sys2Proof.Machine

/-- CpuReset of a CPU with accesses to make: the call counted, then the first list on the bus (R322, log 15). -/
theorem cpuReset_accesses {s : State} {xs : List BusAccess} {rest : List (List BusAccess)}
    (h : s.cpu.resetAccesses = xs :: rest) :
    cpuReset s = cpuAccesses xs { s with
      cpu := { s.cpu with resetAccesses := rest, resetCount := s.cpu.resetCount + 1 } } := by
  simp only [cpuReset, h]

/-- RESET with a CPU that has accesses to make: they run on the reset components (R322). -/
theorem execReset_accesses {s : State} {xs : List BusAccess} {rest : List (List BusAccess)}
    (h : s.cpu.resetAccesses = xs :: rest) :
    exec .reset s = .next (cpuAccesses xs { resetComponents s with
      cpu := { s.cpu with resetAccesses := rest, resetCount := s.cpu.resetCount + 1 } }) :=
  congrArg Host.Outcome.next (cpuReset_accesses (s := resetComponents s) h)

/-- Settles O55: with and without accesses, RESET makes the same reset components and counts one call; the accesses
run from there. -/
theorem cpuResetSeesTheResetBlock : Obligations.CpuResetSeesTheResetBlock :=
  fun _ _ _ hs => ⟨_, execReset_noAccesses rfl, execReset_accesses hs⟩

/-- Settles O57: the scan is at the origin of a frame that has a size, no delay runs, and there is no cell, cartridge or
injection; the last two by power-on's own clause of O54. -/
theorem invariantHoldsAtReset : Obligations.InvariantHoldsAtReset := by
  obtain ⟨-, -, -, -, hcart, hinj⟩ := resetRestoresThePowerOnValues
  exact
    { frameSized := by decide
      scanInFrame := by decide
      precount := by decide
      memCanonical := reset_memory_wf
      cellsExist := List.forall_mem_nil _
      cartSizes := fun c image himage => by simp [hcart c] at himage
      injection := fun x hx => by simp [hinj] at hx }

end Sys2Proof.Machine
end
